-- ==== Sys2Proof/Word.lean ====
section
/-! DEFINITION. The word types of the RC5 cipher engine: the byte, the 128-bit cell that holds a word
(`WMAX`, rule R8), the word of a given width (rule R10), and the seven supported widths (`WSET`, rule R8). -/

namespace Sys2Proof

/-- A byte of KEYBUF, DIN or DOUT. -/
abbrev Byte := BitVec 8

/-- A cell of the `WMAX = 128`-bit datapath: a word register, an entry of S or of L (R8, R21, R31, R32). -/
abbrev Cell := BitVec 128

/-- A word of `w` bits: an unsigned integer below `2^w`, all arithmetic modulo `2^w` (R10, R120). -/
abbrev Word (w : Nat) := BitVec w

/-- The word a cell holds at width `w`: its low `w` bits. -/
def Cell.toWord (w : Nat) (c : Cell) : Word w := c.setWidth w

/-- The cell that holds a word: the word zero-extended to 128 bits (D8). -/
def Word.toCell {w : Nat} (v : Word w) : Cell := v.setWidth 128

/-- A word register number, x0 to x7 (`NX = 8`, R21). -/
abbrev Reg := Fin 8

/-- The supported word widths `WSET` (R8), in the order of WSEL 0..6 (R92). -/
inductive Width where
  | w8 | w16 | w24 | w32 | w64 | w80 | w128
  deriving DecidableEq, Repr

end Sys2Proof
end

