-- ==== Sys2Proof/Config.lean ====
section
/-! DEFINITION. What a build of the engine fixes (the parameters `RMAX` and `KEY_BOUND` of rule R8, the
identification value of rule R24) and the values the spec leaves free (opaque: no body, so nothing can rest on
what they are). The constant ROM Pw/Qw is in `Machine/WordUnit.lean`. -/

namespace Sys2Proof

/-- The build parameters a model takes as arguments (R8, R20, D15, D16). They stand in the state as a plain
constant that no step writes (log entry 3). -/
structure Params where
  /-- `RMAX`, the largest round count: 1..255 (R8). -/
  rmax : BitVec 8
  /-- `KEY_BOUND`, the key-length bound in bytes: 0..255 (R8). -/
  keyBound : BitVec 8
  deriving DecidableEq, Repr

namespace Config

/-- The default build: `RMAX = 255`, `KEY_BOUND = 255` (R8). -/
def defaultParams : Params := { rmax := 255#8, keyBound := 255#8 }

/-- The identification value: the bytes "RC5" and the version 1 (R3, R24). -/
def identification : BitVec 32 := 0x52433501#32

/-- FREE VALUE (log entries 5 and 6). The byte the hardware returns where the spec says "any value": a host read of
a buffer byte that nothing has written since reset (R40) and every byte of a DOUT read while BUSY = 1 (R67).
It is applied to the state's draw counter, so each read draws afresh. -/
opaque freeByte : Nat → Byte

/-- FREE VALUE (log entry 7). What an entry of S that holds no defined value would read as (R31, R202). No state
a run can reach reads one. -/
opaque undefinedCell : Nat → Cell

end Config
end Sys2Proof
end

