-- ==== Sys2Proof/Syntax.lean ====
section
/-! DEFINITION. The commands of the engine: one constructor per row of the opcode map (rule R96). A command
carries the operand fields its row uses, each at the width the format gives it (rules R91 to R95). -/

namespace Sys2Proof

/-- A command of the opcode map of R96, in the map's order. -/
inductive Instr where
  /-- NOP (R200). -/
  | nop
  /-- CONFIG w, r, b (R202): WSEL, R and B of format C (R92). -/
  | config (wsel : BitVec 3) (r : BitVec 8) (b : BitVec 12)
  /-- SETUP (R207). -/
  | setup
  /-- ENCODE (R250). -/
  | encode
  /-- DECODE (R251). -/
  | decode
  /-- ZERO xd (R140). -/
  | zero (rd : Reg)
  /-- LDI xd, imm (R141). -/
  | ldi (rd : Reg) (imm : BitVec 16)
  /-- LDP xd (R142). -/
  | ldp (rd : Reg)
  /-- LDQ xd (R143). -/
  | ldq (rd : Reg)
  /-- ADD xd, xs, xt (R144). -/
  | add (rd rs1 rs2 : Reg)
  /-- SUB xd, xs, xt (R145). -/
  | sub (rd rs1 rs2 : Reg)
  /-- XOR xd, xs, xt (R146). -/
  | xor (rd rs1 rs2 : Reg)
  /-- OR xd, xs, xt (R147). -/
  | or (rd rs1 rs2 : Reg)
  /-- ROL xd, xs, xt (R148). -/
  | rol (rd rs1 rs2 : Reg)
  /-- ROR xd, xs, xt (R149). -/
  | ror (rd rs1 rs2 : Reg)
  /-- ROLI xd, xs, imm (R152). -/
  | roli (rd rs1 : Reg) (imm : BitVec 16)
  /-- RORI xd, xs, imm (R153). -/
  | rori (rd rs1 : Reg) (imm : BitVec 16)
  /-- LOW32 xd, xs (R154). -/
  | low32 (rd rs1 : Reg)
  /-- WLD xd, slot / WLD.BE xd, slot (R150): IMM[0] = slot, IMM[1] = BE (R95). -/
  | wld (rd : Reg) (imm : BitVec 16)
  /-- WST xs, slot / WST.BE xs, slot (R151): IMM[0] = slot, IMM[1] = BE (R95). -/
  | wst (rs1 : Reg) (imm : BitVec 16)
  /-- RDS xd, index (R208). -/
  | rds (rd : Reg) (imm : BitVec 16)
  deriving DecidableEq, Repr

/-- The register a command's RD field names, for the commands that R21 lists as writing one. -/
def Instr.destination : Instr → Option Reg
  | .nop => none
  | .config _ _ _ => none
  | .setup => none
  | .encode => none
  | .decode => none
  | .zero d => some d
  | .ldi d _ => some d
  | .ldp d => some d
  | .ldq d => some d
  | .add d _ _ => some d
  | .sub d _ _ => some d
  | .xor d _ _ => some d
  | .or d _ _ => some d
  | .rol d _ _ => some d
  | .ror d _ _ => some d
  | .roli d _ _ => some d
  | .rori d _ _ => some d
  | .low32 d _ => some d
  | .wld d _ => some d
  | .wst _ _ => none
  | .rds d _ => some d

end Sys2Proof
end

