-- ==== Sys2Proof/WellFormed.lean ====
section
/-! DEFINITION. Which commands are legal words of the opcode map (rule R96): the field constraints that the types of
`Instr` do not already carry. -/

namespace Sys2Proof

/-- WSEL selects a supported width: 0..6; 7 is reserved (R92). -/
def wselLegal (wsel : BitVec 3) : Bool := wsel != 7#3

/-- The immediate of WLD and WST: IMM[15:2] must be 0 (R95). -/
def slotImmLegal (imm : BitVec 16) : Bool := imm.extractLsb' 2 14 == 0#14

/-- A command whose fields are legal (R92, R95, R96). The complement is the pseudocode's `illegal(c)` for the words
the syntax can hold. -/
def Instr.wellFormed : Instr → Bool
  | .nop => true
  | .config wsel _ _ => wselLegal wsel
  | .setup => true
  | .encode => true
  | .decode => true
  | .zero _ => true
  | .ldi _ _ => true
  | .ldp _ => true
  | .ldq _ => true
  | .add _ _ _ => true
  | .sub _ _ _ => true
  | .xor _ _ _ => true
  | .or _ _ _ => true
  | .rol _ _ _ => true
  | .ror _ _ _ => true
  | .roli _ _ _ => true
  | .rori _ _ _ => true
  | .low32 _ _ => true
  | .wld _ imm => slotImmLegal imm
  | .wst _ imm => slotImmLegal imm
  | .rds _ _ => true

end Sys2Proof
end

