-- ==== Sys2Proof/Decode.lean ====
section
/-! DEFINITION. The command encoding (rules R90 to R98): the decoder, total on every 32-bit word and rejecting by
name, then the encoder, written from the format tables. Bit 0 is the least significant bit of the word written to
CMD (R90). -/

namespace Sys2Proof

/-- The four ways a word can be illegal (R97). -/
inductive DecodeError where
  /-- The OP value is reserved. -/
  | reservedOpcode
  /-- A reserved bit of the command's format is 1. -/
  | reservedBit
  /-- A field the command does not use is nonzero. -/
  | unusedField
  /-- CONFIG with WSEL = 7. -/
  | widthSelect
  deriving DecidableEq, Repr

/-! The opcode byte OP of each command (R96). -/

namespace Op
def nop : BitVec 8 := 0x00#8
def config : BitVec 8 := 0x01#8
def setup : BitVec 8 := 0x02#8
def encode : BitVec 8 := 0x03#8
def decode : BitVec 8 := 0x04#8
def zero : BitVec 8 := 0x10#8
def ldi : BitVec 8 := 0x11#8
def ldp : BitVec 8 := 0x12#8
def ldq : BitVec 8 := 0x13#8
def add : BitVec 8 := 0x20#8
def sub : BitVec 8 := 0x21#8
def xor : BitVec 8 := 0x22#8
def or : BitVec 8 := 0x23#8
def rol : BitVec 8 := 0x24#8
def ror : BitVec 8 := 0x25#8
def roli : BitVec 8 := 0x26#8
def rori : BitVec 8 := 0x27#8
def low32 : BitVec 8 := 0x28#8
def wld : BitVec 8 := 0x30#8
def wst : BitVec 8 := 0x31#8
def rds : BitVec 8 := 0x32#8
end Op

/-- The OP byte of a command (R96): what LASTOP records at its completion (R283, R284). -/
def Instr.opByte : Instr → BitVec 8
  | .nop => Op.nop
  | .config _ _ _ => Op.config
  | .setup => Op.setup
  | .encode => Op.encode
  | .decode => Op.decode
  | .zero _ => Op.zero
  | .ldi _ _ => Op.ldi
  | .ldp _ => Op.ldp
  | .ldq _ => Op.ldq
  | .add _ _ _ => Op.add
  | .sub _ _ _ => Op.sub
  | .xor _ _ _ => Op.xor
  | .or _ _ _ => Op.or
  | .rol _ _ _ => Op.rol
  | .ror _ _ _ => Op.ror
  | .roli _ _ _ => Op.roli
  | .rori _ _ _ => Op.rori
  | .low32 _ _ => Op.low32
  | .wld _ _ => Op.wld
  | .wst _ _ => Op.wst
  | .rds _ _ => Op.rds

/-! Fields of a command word (R90, R92 to R94). -/

def opField (c : BitVec 32) : BitVec 8 := c.extractLsb' 0 8
def rdField (c : BitVec 32) : Reg := (c.extractLsb' 8 3).toFin
def rs1Field (c : BitVec 32) : Reg := (c.extractLsb' 12 3).toFin
def rs2Field (c : BitVec 32) : Reg := (c.extractLsb' 16 3).toFin
def immField (c : BitVec 32) : BitVec 16 := c.extractLsb' 16 16
def wselField (c : BitVec 32) : BitVec 3 := c.extractLsb' 8 3
def rField (c : BitVec 32) : BitVec 8 := c.extractLsb' 12 8
def bField (c : BitVec 32) : BitVec 12 := c.extractLsb' 20 12

/-! The reserved bits of each format (R91 to R94). -/

/-- Format N: [31:8]. -/
def reservedN : BitVec 32 := 0xFFFFFF00#32
/-- Format C: [11]. -/
def reservedC : BitVec 32 := 0x00000800#32
/-- Format R: [11], [15] and [31:19]. -/
def reservedR : BitVec 32 := 0xFFF88800#32
/-- Format I: [11] and [15]. -/
def reservedI : BitVec 32 := 0x00008800#32

/-! The fields of R96's column "must be 0". -/

/-- No field. -/
def unusedNone : BitVec 32 := 0x00000000#32
/-- RS1 and RS2: ZERO, LDP, LDQ. -/
def unusedRs1Rs2 : BitVec 32 := 0x00077000#32
/-- RS2: LOW32. -/
def unusedRs2 : BitVec 32 := 0x00070000#32
/-- RS1: LDI, RDS. -/
def unusedRs1 : BitVec 32 := 0x00007000#32
/-- RS1 and IMM[15:2]: WLD. -/
def unusedRs1Imm : BitVec 32 := 0xFFFC7000#32
/-- RD and IMM[15:2]: WST. -/
def unusedRdImm : BitVec 32 := 0xFFFC0700#32

/-- Accept the word as command `i` if its reserved bits and unused fields are all 0 (R97). -/
def accept (c reserved unused : BitVec 32) (i : Instr) : Except DecodeError Instr :=
  if c &&& reserved ≠ 0#32 then .error .reservedBit
  else if c &&& unused ≠ 0#32 then .error .unusedField
  else .ok i

/-- Decoding, a total function of the word alone (R97, R98). -/
def decode (c : BitVec 32) : Except DecodeError Instr :=
  if opField c = Op.nop then accept c reservedN unusedNone .nop
  else if opField c = Op.config then
    if c &&& reservedC ≠ 0#32 then .error .reservedBit
    else if wselLegal (wselField c) then .ok (.config (wselField c) (rField c) (bField c))
    else .error .widthSelect
  else if opField c = Op.setup then accept c reservedN unusedNone .setup
  else if opField c = Op.encode then accept c reservedN unusedNone .encode
  else if opField c = Op.decode then accept c reservedN unusedNone .decode
  else if opField c = Op.zero then accept c reservedR unusedRs1Rs2 (.zero (rdField c))
  else if opField c = Op.ldi then accept c reservedI unusedRs1 (.ldi (rdField c) (immField c))
  else if opField c = Op.ldp then accept c reservedR unusedRs1Rs2 (.ldp (rdField c))
  else if opField c = Op.ldq then accept c reservedR unusedRs1Rs2 (.ldq (rdField c))
  else if opField c = Op.add then
    accept c reservedR unusedNone (.add (rdField c) (rs1Field c) (rs2Field c))
  else if opField c = Op.sub then
    accept c reservedR unusedNone (.sub (rdField c) (rs1Field c) (rs2Field c))
  else if opField c = Op.xor then
    accept c reservedR unusedNone (.xor (rdField c) (rs1Field c) (rs2Field c))
  else if opField c = Op.or then
    accept c reservedR unusedNone (.or (rdField c) (rs1Field c) (rs2Field c))
  else if opField c = Op.rol then
    accept c reservedR unusedNone (.rol (rdField c) (rs1Field c) (rs2Field c))
  else if opField c = Op.ror then
    accept c reservedR unusedNone (.ror (rdField c) (rs1Field c) (rs2Field c))
  else if opField c = Op.roli then
    accept c reservedI unusedNone (.roli (rdField c) (rs1Field c) (immField c))
  else if opField c = Op.rori then
    accept c reservedI unusedNone (.rori (rdField c) (rs1Field c) (immField c))
  else if opField c = Op.low32 then
    accept c reservedR unusedRs2 (.low32 (rdField c) (rs1Field c))
  else if opField c = Op.wld then accept c reservedI unusedRs1Imm (.wld (rdField c) (immField c))
  else if opField c = Op.wst then accept c reservedI unusedRdImm (.wst (rs1Field c) (immField c))
  else if opField c = Op.rds then accept c reservedI unusedRs1 (.rds (rdField c) (immField c))
  else .error .reservedOpcode

/-! The encoder. -/

/-- The three bits that name a register. -/
def regBits (r : Reg) : BitVec 3 := BitVec.ofNat 3 r.val

/-- A field's value placed with its bit 0 at bit `lo` of a 32-bit word. -/
def bitsAt {n : Nat} (lo : Nat) (v : BitVec n) : BitVec 32 := v.setWidth 32 <<< lo

/-- Format N (R91): OP [7:0], the rest 0. -/
def formatN (op : BitVec 8) : BitVec 32 := bitsAt 0 op

/-- Format C (R92): OP [7:0], WSEL [10:8], R [19:12], B [31:20], the rest 0. -/
def formatC (op : BitVec 8) (wsel : BitVec 3) (r : BitVec 8) (b : BitVec 12) : BitVec 32 :=
  bitsAt 0 op ||| bitsAt 8 wsel ||| bitsAt 12 r ||| bitsAt 20 b

/-- Format R (R93): OP [7:0], RD [10:8], RS1 [14:12], RS2 [18:16], the rest 0. -/
def formatR (op : BitVec 8) (rd rs1 rs2 : BitVec 3) : BitVec 32 :=
  bitsAt 0 op ||| bitsAt 8 rd ||| bitsAt 12 rs1 ||| bitsAt 16 rs2

/-- Format I (R94): OP [7:0], RD [10:8], RS1 [14:12], IMM [31:16], the rest 0. -/
def formatI (op : BitVec 8) (rd rs1 : BitVec 3) (imm : BitVec 16) : BitVec 32 :=
  bitsAt 0 op ||| bitsAt 8 rd ||| bitsAt 12 rs1 ||| bitsAt 16 imm

/-- The word of a command (R91 to R96, R99). -/
def encode : Instr → BitVec 32
  | .nop => formatN Op.nop
  | .config wsel r b => formatC Op.config wsel r b
  | .setup => formatN Op.setup
  | .encode => formatN Op.encode
  | .decode => formatN Op.decode
  | .zero rd => formatR Op.zero (regBits rd) 0#3 0#3
  | .ldi rd imm => formatI Op.ldi (regBits rd) 0#3 imm
  | .ldp rd => formatR Op.ldp (regBits rd) 0#3 0#3
  | .ldq rd => formatR Op.ldq (regBits rd) 0#3 0#3
  | .add rd rs1 rs2 => formatR Op.add (regBits rd) (regBits rs1) (regBits rs2)
  | .sub rd rs1 rs2 => formatR Op.sub (regBits rd) (regBits rs1) (regBits rs2)
  | .xor rd rs1 rs2 => formatR Op.xor (regBits rd) (regBits rs1) (regBits rs2)
  | .or rd rs1 rs2 => formatR Op.or (regBits rd) (regBits rs1) (regBits rs2)
  | .rol rd rs1 rs2 => formatR Op.rol (regBits rd) (regBits rs1) (regBits rs2)
  | .ror rd rs1 rs2 => formatR Op.ror (regBits rd) (regBits rs1) (regBits rs2)
  | .roli rd rs1 imm => formatI Op.roli (regBits rd) (regBits rs1) imm
  | .rori rd rs1 imm => formatI Op.rori (regBits rd) (regBits rs1) imm
  | .low32 rd rs1 => formatR Op.low32 (regBits rd) (regBits rs1) 0#3
  | .wld rd imm => formatI Op.wld (regBits rd) 0#3 imm
  | .wst rs1 imm => formatI Op.wst 0#3 (regBits rs1) imm
  | .rds rd imm => formatI Op.rds (regBits rd) 0#3 imm

/-! The opcode table's numbering. A command is one 32-bit word (R90), so the table's bits are the word's. -/

/-- The command word whose bits are `w`, every bit above `nbits` 0. -/
def tableWord (nbits w : Nat) : BitVec 32 := BitVec.ofNat 32 (w % 2 ^ nbits)

/-- The command the decoder reads from an instruction whose bits are `w`, numbered as the opcode table numbers
them; none where the decoder refuses, and none for an instruction longer than a command. -/
def decodeTableWord (nbits w : Nat) : Option Instr :=
  if nbits ≤ 32 then
    match decode (tableWord nbits w) with
    | .ok i => some i
    | .error _ => none
  else none

end Sys2Proof
end

