-- ==== Sys2Proof/Machine/State.lean ====
section
/-! DEFINITION. The state of the engine (rules R20 to R40) as plain data, the reasons a step can stop, and the state
right after reset. The accessors and the operations over it are in `Machine/Ops.lean`, `Operands.lean` and
`Flags.lean`. -/

namespace Sys2Proof.Machine

/-- The lifecycle phase (R27). Code 3 is never produced, so it has no constructor. -/
inductive Phase where
  /-- No instance has been configured since reset. -/
  | uncfg
  /-- Configured, no key set up. -/
  | cfgd
  /-- Configured and keyed: S holds the round keys. -/
  | ready
  deriving DecidableEq, Repr

/-- The error codes of ECODE (R280). Codes 8 to 15 are never produced, so they have no constructor. -/
inductive ErrCode where
  | ok | keySize | length | illegal | notReady | notConfigured | badParam | index
  deriving DecidableEq, Repr

/-- The events of R72 in the order in which they happen: the host's bus accesses, the engine's completion of the
pending command, and the platform's reset input. -/
inductive Event where
  /-- A host bus read at a byte offset (R62). -/
  | read (addr : BitVec 12)
  /-- A host bus write at a byte offset (R63). -/
  | write (addr : BitVec 12) (value : BitVec 32)
  /-- The engine completes the pending command, if there is one (R35, R320). -/
  | complete
  /-- The reset input (R310). -/
  | reset
  deriving DecidableEq, Repr

/-- The RAM bytes of the register window (KEYBUF, DIN, DOUT) by byte offset, rising, written bytes only. An
unlisted byte has not been written since reset and has no value (R40). -/
abbrev Memory := List Host.Cell

/-- The state of the engine. The fields up to `pend` are the spec's (R20); `params` is the build's constant; the last
three are the model's own (log entries 2, 4 and 5). -/
structure State where
  /-- The build parameters `RMAX` and `KEY_BOUND` (R8). No step writes them. -/
  params : Params
  /-- CFG_WSEL: the configured width (R29). -/
  cfgWsel : Width
  /-- CFG_R: the round count (R29). -/
  cfgR : BitVec 8
  /-- CFG_B: the key length in bytes (R29). -/
  cfgB : BitVec 12
  /-- PHASE (R27). -/
  phase : Phase
  /-- The word registers x0 to x7 (R21). -/
  x : Vector Cell 8
  /-- The round-key table S (R31): its defined entries, in order; `[]` while S holds no defined values. -/
  sTable : List Cell
  /-- The working table L (R32): its defined entries; `[]` while L holds no defined values, which is at every step's
  end, since only a running SETUP uses it. -/
  lTable : List Cell
  /-- KEYBUF, DIN and DOUT (R33, R34). -/
  mem : Memory
  /-- DLEN (R30). -/
  dlen : BitVec 6
  /-- KLEN (R33). -/
  klen : BitVec 9
  /-- STATUS.ERR, sticky (R28). -/
  err : Bool
  /-- STATUS.OVR, sticky (R28). -/
  ovr : Bool
  /-- STATUS.ECODE (R28, R280). -/
  ecode : ErrCode
  /-- STATUS.LASTOP (R28). -/
  lastop : BitVec 8
  /-- BUSY and PEND (R35): `some c` while the command word `c` is in flight (BUSY = 1), `none` when BUSY = 0. -/
  pend : Option (BitVec 32)
  /-- The model's own: the events still to come, next first. The host's accesses are the input (R22). -/
  events : List Event
  /-- The model's own: the values the host's bus reads returned, oldest first. -/
  replies : List (BitVec 32)
  /-- The model's own: how many free bytes have been set aside by bus reads. -/
  draws : Nat
  deriving DecidableEq, Repr

/-- Why the engine's step stops the model. Both are named by the spec itself (R40, R328). -/
inductive Fault where
  /-- SETUP consumes a KEYBUF byte not written since reset. Raised by SETUP. Safe: the chip would compute on
  whatever its RAM holds (R40, R207, R328, D33). -/
  | unwrittenKeyByte
  /-- ENCODE, DECODE or WLD consumes a DIN byte not written since reset. Raised by those three. Safe, for the same
  reason (R40, R150, R328, D33). -/
  | unwrittenInputByte
  deriving DecidableEq, Repr

/-- Why the model gives an instruction no meaning. -/
inductive Refusal where
  /-- An instruction whose meaning has not been written. Raised by no arm of `exec`: every command has its meaning.
  Safe. -/
  | notModelled (mnemonic : String)
  deriving DecidableEq, Repr

/-- One step's outcome. -/
abbrev Result := Host.Outcome State Fault Refusal

/-- The engine of a build right after reset (R40, R310), with no event to come. S, L and the buffers hold no defined
value. -/
def State.resetFor (params : Params) : State :=
  { params := params
    cfgWsel := .w8
    cfgR := 0#8
    cfgB := 0#12
    phase := .uncfg
    x := Vector.replicate 8 0#128
    sTable := []
    lTable := []
    mem := []
    dlen := 0#6
    klen := 0#9
    err := false
    ovr := false
    ecode := .ok
    lastop := 0#8
    pend := none
    events := []
    replies := []
    draws := 0 }

/-- The engine of the default build right after reset (R8, R40). -/
def State.reset : State := State.resetFor Config.defaultParams

end Sys2Proof.Machine
end

