-- ==== Sys2Proof/Machine/WordUnit.lean ====
section
/-! DEFINITION. The word unit (rules R120 to R137): the widths, the constant ROM, the arithmetic and byte primitives.
Every primitive is defined for every width `w`, a power of two or not (R120). -/

namespace Sys2Proof.Machine

/-- `w`, the width in bits (R8, R92). -/
def widthBits : Width → Nat
  | .w8 => 8
  | .w16 => 16
  | .w24 => 24
  | .w32 => 32
  | .w64 => 64
  | .w80 => 80
  | .w128 => 128

/-- The WSEL code of a width (R92). -/
def widthCode : Width → BitVec 3
  | .w8 => 0#3
  | .w16 => 1#3
  | .w24 => 2#3
  | .w32 => 3#3
  | .w64 => 4#3
  | .w80 => 5#3
  | .w128 => 6#3

/-- The width a WSEL code selects; 7 selects none (R92). -/
def widthOfCode (wsel : BitVec 3) : Option Width :=
  if wsel = 0#3 then some .w8
  else if wsel = 1#3 then some .w16
  else if wsel = 2#3 then some .w24
  else if wsel = 3#3 then some .w32
  else if wsel = 4#3 then some .w64
  else if wsel = 5#3 then some .w80
  else if wsel = 6#3 then some .w128
  else none

/-- The magic constant Pw, from the ROM (R121). -/
def romP : Width → Nat
  | .w8 => 0xB7
  | .w16 => 0xB7E1
  | .w24 => 0xB7E151
  | .w32 => 0xB7E15163
  | .w64 => 0xB7E151628AED2A6B
  | .w80 => 0xB7E151628AED2A6ABF71
  | .w128 => 0xB7E151628AED2A6ABF7158809CF4F3C7

/-- The magic constant Qw, from the ROM (R121). -/
def romQ : Width → Nat
  | .w8 => 0x9F
  | .w16 => 0x9E37
  | .w24 => 0x9E3779
  | .w32 => 0x9E3779B9
  | .w64 => 0x9E3779B97F4A7C15
  | .w80 => 0x9E3779B97F4A7C15F39D
  | .w128 => 0x9E3779B97F4A7C15F39CC0605CEDC835

variable {w : Nat}

/-- `add_w` (R122). -/
def addW (a b : Word w) : Word w := a + b

/-- `sub_w`: the sum of `a`, the complement of `b` over `w` bits, and 1 (R123). -/
def subW (a b : Word w) : Word w := a + ~~~b + 1

/-- `xor_w` (R124). -/
def xorW (a b : Word w) : Word w := a ^^^ b

/-- `or_w` (R125). -/
def orW (a b : Word w) : Word w := a ||| b

/-- `rotl_w(v, k)`, the amount reduced mod `w` (R126). -/
def rotlW (v : Word w) (k : Nat) : Word w := (v <<< (k % w)) ||| (v >>> (w - k % w))

/-- `rotr_w(v, k)`, the amount reduced mod `w` (R126). -/
def rotrW (v : Word w) (k : Nat) : Word w := (v >>> (k % w)) ||| (v <<< (w - k % w))

/-- `low32(v)` (R133). -/
def low32 (v : Word w) : Nat := v.toNat % 2 ^ 32

/-- `rotamt_w(y)`: the low 32 bits first, then mod `w` (R127, 90_conflicts.md C13). -/
def rotamt (y : Word w) : Nat := low32 y % w

/-- `from_small_w(n)` (R128). -/
def fromSmall (w n : Nat) : Word w := BitVec.ofNat w n

/-- The number whose base-256 digits are the bytes, byte 0 the least significant. -/
def bytesToNat : List Byte → Nat
  | [] => 0
  | b :: rest => b.toNat + 256 * bytesToNat rest

/-- `from_bytes_le` (R129). -/
def fromBytesLe (w : Nat) (bytes : List Byte) : Word w := BitVec.ofNat w (bytesToNat bytes)

/-- `from_bytes_be`: byte 0 is the most significant (R130). -/
def fromBytesBe (w : Nat) (bytes : List Byte) : Word w := fromBytesLe w bytes.reverse

/-- `to_bytes_le_w`: byte `k` is `v[8k+7:8k]`, for the `w / 8` bytes of the word (R131). -/
def toBytesLe (v : Word w) : List Byte := (List.range (w / 8)).map fun k => v.extractLsb' (8 * k) 8

/-- `to_bytes_be_w`: byte `k` is `v[w-1-8k : w-8-8k]` (R132). -/
def toBytesBe (v : Word w) : List Byte :=
  (List.range (w / 8)).map fun k => v.extractLsb' (w - 8 - 8 * k) 8

end Sys2Proof.Machine
end

