-- ==== Sys2Proof/Machine/Ops.lean ====
section
/-! DEFINITION. The shared operations: the buffers' RAM (rules R33, R34, R40, R64), the completion of a command with
success (`finish`, R284) and with an error (`raise CmdError`, R283), and the checks every command makes first
(R281). -/

namespace Sys2Proof.Machine

/-! Memory: the RAM bytes of the window. -/

/-- The byte at an offset, none if it has not been written since reset. -/
def Memory.read : Memory → Nat → Option Byte
  | [], _ => none
  | (k, b) :: rest, a => if k = a then some b else Memory.read rest a

/-- Write one byte, keeping the addresses rising. -/
def Memory.write : Memory → Nat → Byte → Memory
  | [], a, v => [(a, v)]
  | (k, b) :: rest, a, v =>
    if a < k then (a, v) :: (k, b) :: rest
    else if a = k then (a, v) :: rest
    else (k, b) :: Memory.write rest a v

/-- Write bytes at consecutive offsets from `a`. -/
def Memory.writeBytes : Memory → Nat → List Byte → Memory
  | m, _, [] => m
  | m, a, b :: rest => Memory.writeBytes (m.write a b) (a + 1) rest

/-- Read `n` bytes at consecutive offsets from `a`; none if one of them has not been written since reset. -/
def Memory.readBytes (m : Memory) : Nat → Nat → Option (List Byte)
  | _, 0 => some []
  | a, n + 1 =>
    match m.read a, m.readBytes (a + 1) n with
    | some b, some bs => some (b :: bs)
    | _, _ => none

/-- The offsets of a memory rise strictly, from above `low` on. -/
def Memory.risesFrom : Nat → Memory → Bool
  | _, [] => true
  | low, (k, _) :: rest => decide (low ≤ k) && Memory.risesFrom (k + 1) rest

/-- The canonical form: strictly rising offsets. (An unlisted byte has no value, so no entry can equal one.) -/
def Memory.wf (m : Memory) : Bool := Memory.risesFrom 0 m

/-! The buffers' places in the window (R23). Byte `4m+k` of a buffer sits in bits [8k+7:8k] of its register `m`
(R64), so byte `n` of a buffer is the window's byte at its base plus `n`. -/

/-- DIN[0] (R23). -/
def dinBase : Nat := 0x020
/-- DOUT[0] (R23). -/
def doutBase : Nat := 0x040
/-- KEY[0] (R23). -/
def keyBase : Nat := 0x100

/-- The size of DIN and of DOUT in bytes, `BLK_BYTES` (R8). -/
def blkBytes : Nat := 32
/-- The size of KEYBUF in bytes, `KEYBUF_BYTES` (R8). -/
def keybufBytes : Nat := 256

/-- Whether an offset is a byte of KEYBUF, DIN or DOUT. -/
def isBufferByte (a : Nat) : Bool :=
  (decide (dinBase ≤ a) && decide (a < dinBase + blkBytes)) ||
  (decide (doutBase ≤ a) && decide (a < doutBase + blkBytes)) ||
  (decide (keyBase ≤ a) && decide (a < keyBase + keybufBytes))

/-! Completion. -/

/-- BUSY (R28, R35). -/
def State.busy (s : State) : Bool := s.pend.isSome

/-- `finish`, the successful completion of a command with opcode byte `op`, after its effects (R284). ERR stays. -/
def State.finish (op : BitVec 8) (s : State) : State :=
  { s with ecode := .ok, lastop := op, pend := none }

/-- `raise CmdError(code)`, the error completion of a command with opcode byte `op`: the engine's one way of taking an
error, with no trap, no vector and no saved state (R283). -/
def State.raise (code : ErrCode) (op : BitVec 8) (s : State) : State :=
  { s with ecode := code, lastop := op, err := true, pend := none }

/-! Checks (R281). Each runs the rest of the command only if the check passes. -/

/-- Check (1): the command's fields are legal (R97). -/
def whenLegal (legal : Bool) (op : BitVec 8) (s : State) (rest : Result) : Result :=
  if legal then rest else .next (s.raise .illegal op)

/-- Check (2): an instance is configured. -/
def whenConfigured (op : BitVec 8) (s : State) (rest : Result) : Result :=
  if s.phase = .uncfg then .next (s.raise .notConfigured op) else rest

/-- Checks (2) and (3): an instance is configured and keyed. -/
def whenReady (op : BitVec 8) (s : State) (rest : Result) : Result :=
  whenConfigured op s (if s.phase = .ready then rest else .next (s.raise .notReady op))

end Sys2Proof.Machine
end

