-- ==== Sys2Proof/Machine/Operands.lean ====
section
/-! DEFINITION. The operand forms: the configured parameters (rule R8), word registers (R21), the WLD and WST immediate
(R95), entries of S (R31), and the bytes of a slot, a block or a key (R33, R34, R65). -/

namespace Sys2Proof.Machine

/-! The current configuration (R8, R9). -/

/-- `w`, the configured width in bits. -/
def State.w (s : State) : Nat := widthBits s.cfgWsel

/-- `u = w / 8`, the configured width in bytes. -/
def State.u (s : State) : Nat := s.w / 8

/-- `r`, the round count. -/
def State.r (s : State) : Nat := s.cfgR.toNat

/-- `b`, the key length in bytes. -/
def State.b (s : State) : Nat := s.cfgB.toNat

/-- `t = 2 * (r + 1)`, the length of S. -/
def State.t (s : State) : Nat := 2 * (s.r + 1)

/-- `c = max(1, ceil(8 * b / w))`, the length of L. -/
def State.c (s : State) : Nat := max 1 ((8 * s.b + s.w - 1) / s.w)

/-- Pw for the current width (R121). -/
def State.magicP (s : State) : Word s.w := BitVec.ofNat s.w (romP s.cfgWsel)

/-- Qw for the current width (R121). -/
def State.magicQ (s : State) : Word s.w := BitVec.ofNat s.w (romQ s.cfgWsel)

/-! Word registers. -/

/-- The word in register `r` (R11, R21). -/
def State.word (s : State) (r : Reg) : Word s.w := (s.x.get r).toWord s.w

/-- Write a word to register `r` (R11, R21). No register is hardwired. -/
def State.setWord {w : Nat} (r : Reg) (v : Word w) (s : State) : State :=
  { s with x := s.x.set r.val v.toCell r.isLt }

/-- The end of a command that writes one word register: write it, then finish (R138). -/
def writeWord {w : Nat} (op : BitVec 8) (rd : Reg) (v : Word w) (s : State) : Result :=
  .next ((s.setWord rd v).finish op)

/-! The immediate of WLD and WST (R95). -/

/-- IMM[0]: 0 for slot 0 (word A), 1 for slot 1 (word B). -/
def slotIndex (imm : BitVec 16) : Nat := (imm.extractLsb' 0 1).toNat

/-- IMM[1]: the byte order, true for big-endian. -/
def bigEndian (imm : BitVec 16) : Bool := imm.extractLsb' 1 1 == 1#1

/-- The first byte of the slot within its buffer: `IMM[0] * u` (R150, R151). -/
def State.slotBase (s : State) (imm : BitVec 16) : Nat := slotIndex imm * s.u

/-! Entries of S. -/

/-- Entry `i` of the round-key table (R31). An entry without a defined value reads as a free value (log entry 7). -/
def State.roundKey (s : State) (i : Nat) : Word s.w :=
  ((s.sTable[i]?).getD (Config.undefinedCell i)).toWord s.w

/-! Bytes of the buffers. -/

/-- DIN[from .. from+n-1], none if a byte has not been written since reset (R34, R40). -/
def State.dinBytes (s : State) (from_ n : Nat) : Option (List Byte) := s.mem.readBytes (dinBase + from_) n

/-- KEY[0 .. n-1], none if a byte has not been written since reset (R33, R40). -/
def State.keyBytes (s : State) (n : Nat) : Option (List Byte) := s.mem.readBytes keyBase n

/-- Write bytes to DOUT from byte `from_` on (R34). -/
def State.setDout (from_ : Nat) (bytes : List Byte) (s : State) : State :=
  { s with mem := s.mem.writeBytes (doutBase + from_) bytes }

end Sys2Proof.Machine
end

