-- ==== Sys2Proof/Machine/Flags.lean ====
section
/-! DEFINITION. The status and configuration registers a host reads (rules R24 to R29) and the sticky flags ERR and OVR
(R28, R66). There are no arithmetic flags: no word command writes any flag (R137). -/

namespace Sys2Proof.Machine

/-- The phase's code in STATUS.PHASE (R27). -/
def phaseCode : Phase → BitVec 2
  | .uncfg => 0#2
  | .cfgd => 1#2
  | .ready => 2#2

/-- The error's code in STATUS.ECODE (R280). -/
def errCodeBits : ErrCode → BitVec 4
  | .ok => 0#4
  | .keySize => 1#4
  | .length => 2#4
  | .illegal => 3#4
  | .notReady => 4#4
  | .notConfigured => 5#4
  | .badParam => 6#4
  | .index => 7#4

/-- STATUS as read: BUSY [0], PHASE [2:1], ERR [3], OVR [4], ECODE [11:8], LASTOP [23:16], the rest 0 (R28). -/
def State.statusWord (s : State) : BitVec 32 :=
  bitsAt 0 (BitVec.ofBool s.busy) ||| bitsAt 1 (phaseCode s.phase) ||| bitsAt 3 (BitVec.ofBool s.err) |||
    bitsAt 4 (BitVec.ofBool s.ovr) ||| bitsAt 8 (errCodeBits s.ecode) ||| bitsAt 16 s.lastop

/-- CFGR as read: WSEL [2:0], R [15:8], B [27:16], the rest 0 (R29). -/
def State.cfgrWord (s : State) : BitVec 32 :=
  bitsAt 0 (widthCode s.cfgWsel) ||| bitsAt 8 s.cfgR ||| bitsAt 16 s.cfgB

/-- PARAM as read: RMAX [7:0], KEY_BOUND [15:8], NX [23:16], WSUP [30:24], the rest 0 (R25). -/
def State.paramWord (s : State) : BitVec 32 :=
  bitsAt 0 s.params.rmax ||| bitsAt 8 s.params.keyBound ||| bitsAt 16 8#8 ||| bitsAt 24 0x7F#7

/-- A host write to STATUS with BUSY = 0: clear ERR if bit 3 of the value is 1 and OVR if bit 4 is 1 (R28, R63). -/
def State.clearSticky (v : BitVec 32) (s : State) : State :=
  { s with err := s.err && !v.getLsbD 3, ovr := s.ovr && !v.getLsbD 4 }

/-- A host write dropped because BUSY = 1 sets OVR and changes nothing else (R66). -/
def State.markOverrun (s : State) : State := { s with ovr := true }

end Sys2Proof.Machine
end

