-- ==== Sys2Proof/Machine/KeySchedule.lean ====
section
/-! DEFINITION. The key schedule (rules R203 to R206): the L table, the initial S table, and the mixing loop, in the order
of operations the spec fixes. -/

namespace Sys2Proof.Machine

variable {w : Nat}

/-- One step of the loop that generates L, for key byte `i` (R204): rotate the word the byte belongs to left by 8, add
the byte. -/
def packByte (key : List Byte) (i : Nat) (l : List (Word w)) : List (Word w) :=
  l.set (i / (w / 8))
    (addW (rotlW (l.getD (i / (w / 8)) 0) 8) (fromSmall w (key.getD i 0).toNat))

/-- The loop `for i in n-1 downto 0` that generates L (R204). -/
def packKey (key : List Byte) : Nat → List (Word w) → List (Word w)
  | 0, l => l
  | i + 1, l => packKey key i (packByte key i l)

/-- The L table of a key: `c` zero words, then every key byte from the last to the first (R204). -/
def generateL (w c : Nat) (key : List Byte) : List (Word w) :=
  packKey key key.length (List.replicate c 0)

/-- `n` entries of S from the entry `first` on, each `Qw` above the one before (R205). -/
def arithmeticTable (q : Word w) : Nat → Word w → List (Word w)
  | 0, _ => []
  | n + 1, first => first :: arithmeticTable q n (addW first q)

/-- The S table before mixing: `S[0] = Pw`, `S[i] = S[i-1] + Qw` (R205). -/
def generateS (p q : Word w) (t : Nat) : List (Word w) := arithmeticTable q t p

/-- The variables of the mixing loop (R206). -/
structure Mix (w : Nat) where
  s : List (Word w)
  l : List (Word w)
  i : Nat
  j : Nat
  a : Word w
  b : Word w
  deriving DecidableEq, Repr

/-- One iteration of the mixing loop (R206): B uses the A just computed, in its sum and in its rotation amount. -/
def mixStep (t c : Nat) (m : Mix w) : Mix w :=
  let a := rotlW (addW (addW (m.s.getD m.i 0) m.a) m.b) 3
  let b := rotlW (addW (addW (m.l.getD m.j 0) a) m.b) (rotamt (addW a m.b))
  { s := m.s.set m.i a, l := m.l.set m.j b, i := (m.i + 1) % t, j := (m.j + 1) % c, a := a, b := b }

/-- `n` iterations of the mixing loop (R206). -/
def mixLoop (t c : Nat) : Nat → Mix w → Mix w
  | 0, m => m
  | n + 1, m => mixLoop t c n (mixStep t c m)

/-- The key schedule: L and S, then `3 * max(t, c)` mixing iterations; its result is the final S (R203). -/
def keySchedule (p q : Word w) (t c : Nat) (key : List Byte) : List (Word w) :=
  (mixLoop t c (3 * max t c)
    { s := generateS p q t, l := generateL w c key, i := 0, j := 0, a := 0, b := 0 }).s

end Sys2Proof.Machine
end

