-- ==== Sys2Proof/Machine/BlockCipher.lean ====
section
/-! DEFINITION. The Feistel block transform on the two words of a block (rules R250 and R251): one round, the rounds in
order, and the whitening, each direction. The round keys are a function of the entry number. -/

namespace Sys2Proof.Machine

variable {w : Nat}

/-- A block: the words A and B (R13). -/
structure Block (w : Nat) where
  a : Word w
  b : Word w
  deriving DecidableEq, Repr

/-- Round `i` of encoding: B uses the A computed in the same round (R250). -/
def encodeRound (key : Nat → Word w) (i : Nat) (p : Block w) : Block w :=
  let a := addW (rotlW (xorW p.a p.b) (rotamt p.b)) (key (2 * i))
  let b := addW (rotlW (xorW p.b a) (rotamt a)) (key (2 * i + 1))
  { a := a, b := b }

/-- Rounds 1 to `r` of encoding, in rising order (R250). -/
def encodeRounds (key : Nat → Word w) : Nat → Block w → Block w
  | 0, p => p
  | i + 1, p => encodeRound key (i + 1) (encodeRounds key i p)

/-- Encoding of one block: add `S[0]` and `S[1]`, then `r` rounds (R250). -/
def encodeBlock (key : Nat → Word w) (r : Nat) (p : Block w) : Block w :=
  encodeRounds key r { a := addW (key 0) p.a, b := addW (key 1) p.b }

/-- Round `i` of decoding: A uses the B computed in the same round (R251). -/
def decodeRound (key : Nat → Word w) (i : Nat) (p : Block w) : Block w :=
  let b := xorW (rotrW (subW p.b (key (2 * i + 1))) (rotamt p.a)) p.a
  let a := xorW (rotrW (subW p.a (key (2 * i))) (rotamt b)) b
  { a := a, b := b }

/-- Rounds `r` down to 1 of decoding (R251). -/
def decodeRounds (key : Nat → Word w) : Nat → Block w → Block w
  | 0, p => p
  | i + 1, p => decodeRounds key i (decodeRound key (i + 1) p)

/-- Decoding of one block: `r` rounds in falling order, then subtract `S[0]` and `S[1]` (R251). -/
def decodeBlock (key : Nat → Word w) (r : Nat) (p : Block w) : Block w :=
  let q := decodeRounds key r p
  { a := subW q.a (key 0), b := subW q.b (key 1) }

/-- The block in `2u` bytes: word A from the first `u`, word B from the rest, little-endian (R65). -/
def blockOfBytes (w : Nat) (bytes : List Byte) : Block w :=
  { a := fromBytesLe w (bytes.take (w / 8)), b := fromBytesLe w (bytes.drop (w / 8)) }

/-- The bytes of a block: those of A, then those of B, little-endian (R65). -/
def bytesOfBlock (p : Block w) : List Byte := toBytesLe p.a ++ toBytesLe p.b

end Sys2Proof.Machine
end

