-- ==== Sys2Proof/Machine/Lifecycle.lean ====
section
/-! DEFINITION. The commands that create, key and inspect an instance: NOP, CONFIG, SETUP and RDS (rules R200 to R208).
Each checks in the order of R281, and completes by `finish` or `raise`. -/

namespace Sys2Proof.Machine

/-- NOP (R200): no effect but the completion. -/
def execNop (s : State) : Result := .next (s.finish Op.nop)

/-- The effects of a successful CONFIG (R202): the configuration, x0 to x7 cleared, S undefined, phase CFGD. -/
def State.configure (width : Width) (r : BitVec 8) (b : BitVec 12) (s : State) : State :=
  { s with
    cfgWsel := width, cfgR := r, cfgB := b
    x := Vector.replicate 8 0#128
    sTable := []
    phase := .cfgd }

/-- CONFIG (R202): ILLEGAL, BAD_PARAM and KEY_SIZE are checked in that order. -/
def execConfig (wsel : BitVec 3) (r : BitVec 8) (b : BitVec 12) (s : State) : Result :=
  match widthOfCode wsel with
  | none => .next (s.raise .illegal Op.config)
  | some width =>
    if r.toNat = 0 ∨ s.params.rmax.toNat < r.toNat then .next (s.raise .badParam Op.config)
    else if s.params.keyBound.toNat < b.toNat then .next (s.raise .keySize Op.config)
    else .next ((s.configure width r b).finish Op.config)

/-- The effects of a successful SETUP (R207): S is the key schedule's, L is undefined, phase READY. -/
def State.install {w : Nat} (table : List (Word w)) (s : State) : State :=
  { s with sTable := table.map Word.toCell, lTable := [], phase := .ready }

/-- SETUP (R207): the key schedule on KEY[0..b-1]. A key byte not written since reset is a fault (R40). -/
def execSetup (s : State) : Result :=
  whenConfigured Op.setup s <|
    if s.klen.toNat ≠ s.b then .next (s.raise .keySize Op.setup)
    else
      match s.keyBytes s.b with
      | none => .fault .unwrittenKeyByte
      | some key =>
        .next ((s.install (keySchedule s.magicP s.magicQ s.t s.c key)).finish Op.setup)

/-- RDS (R208): one round key into a word register. -/
def execRds (rd : Reg) (imm : BitVec 16) (s : State) : Result :=
  whenReady Op.rds s <|
    if s.t ≤ imm.toNat then .next (s.raise .index Op.rds)
    else writeWord Op.rds rd (s.roundKey imm.toNat) s

end Sys2Proof.Machine
end

