-- ==== Sys2Proof/Machine/WordLoads.lean ====
section
/-! DEFINITION. The word commands that load a constant: ZERO, LDI, LDP and LDQ (rules R139 to R143). -/

namespace Sys2Proof.Machine

/-- ZERO (R140). -/
def execZero (rd : Reg) (s : State) : Result :=
  whenConfigured Op.zero s (writeWord Op.zero rd (0 : Word s.w) s)

/-- LDI (R141): IMM mod `2^w`. -/
def execLdi (rd : Reg) (imm : BitVec 16) (s : State) : Result :=
  whenConfigured Op.ldi s (writeWord Op.ldi rd (fromSmall s.w imm.toNat) s)

/-- LDP (R142). -/
def execLdp (rd : Reg) (s : State) : Result :=
  whenConfigured Op.ldp s (writeWord Op.ldp rd s.magicP s)

/-- LDQ (R143). -/
def execLdq (rd : Reg) (s : State) : Result :=
  whenConfigured Op.ldq s (writeWord Op.ldq rd s.magicQ s)

end Sys2Proof.Machine
end

