-- ==== Sys2Proof/Machine/WordAlu.lean ====
section
/-! DEFINITION. The word commands of the arithmetic unit: ADD, SUB, XOR, OR, ROL, ROR, ROLI, RORI and LOW32 (rules R144 to
R149 and R152 to R154). Each reads its sources before it writes (R138). -/

namespace Sys2Proof.Machine

/-- ADD (R144). -/
def execAdd (rd rs1 rs2 : Reg) (s : State) : Result :=
  whenConfigured Op.add s (writeWord Op.add rd (addW (s.word rs1) (s.word rs2)) s)

/-- SUB (R145). -/
def execSub (rd rs1 rs2 : Reg) (s : State) : Result :=
  whenConfigured Op.sub s (writeWord Op.sub rd (subW (s.word rs1) (s.word rs2)) s)

/-- XOR (R146). -/
def execXor (rd rs1 rs2 : Reg) (s : State) : Result :=
  whenConfigured Op.xor s (writeWord Op.xor rd (xorW (s.word rs1) (s.word rs2)) s)

/-- OR (R147). -/
def execOr (rd rs1 rs2 : Reg) (s : State) : Result :=
  whenConfigured Op.or s (writeWord Op.or rd (orW (s.word rs1) (s.word rs2)) s)

/-- ROL (R148): by `rotamt_w` of the second source. -/
def execRol (rd rs1 rs2 : Reg) (s : State) : Result :=
  whenConfigured Op.rol s (writeWord Op.rol rd (rotlW (s.word rs1) (rotamt (s.word rs2))) s)

/-- ROR (R149): by `rotamt_w` of the second source. -/
def execRor (rd rs1 rs2 : Reg) (s : State) : Result :=
  whenConfigured Op.ror s (writeWord Op.ror rd (rotrW (s.word rs1) (rotamt (s.word rs2))) s)

/-- ROLI (R152): by `IMM mod w`. -/
def execRoli (rd rs1 : Reg) (imm : BitVec 16) (s : State) : Result :=
  whenConfigured Op.roli s (writeWord Op.roli rd (rotlW (s.word rs1) imm.toNat) s)

/-- RORI (R153): by `IMM mod w`. -/
def execRori (rd rs1 : Reg) (imm : BitVec 16) (s : State) : Result :=
  whenConfigured Op.rori s (writeWord Op.rori rd (rotrW (s.word rs1) imm.toNat) s)

/-- LOW32 (R154). -/
def execLow32 (rd rs1 : Reg) (s : State) : Result :=
  whenConfigured Op.low32 s (writeWord Op.low32 rd (fromSmall s.w (low32 (s.word rs1))) s)

end Sys2Proof.Machine
end

