-- ==== Sys2Proof/Machine/WordMoves.lean ====
section
/-! DEFINITION. The word commands that move a word between a register and a buffer: WLD and WST (rules R150 and R151).
DLEN is not checked. -/

namespace Sys2Proof.Machine

/-- WLD (R150): the `u` bytes of the slot, in the byte order of IMM[1]. A DIN byte not written since reset is a fault
(R40). -/
def execWld (rd : Reg) (imm : BitVec 16) (s : State) : Result :=
  whenLegal (slotImmLegal imm) Op.wld s <| whenConfigured Op.wld s <|
    match s.dinBytes (s.slotBase imm) s.u with
    | none => .fault .unwrittenInputByte
    | some bytes =>
      writeWord Op.wld rd (if bigEndian imm then fromBytesBe s.w bytes else fromBytesLe s.w bytes) s

/-- The bytes WST stores: the word in the byte order of IMM[1] (R151). -/
def State.storeBytes (s : State) (rs1 : Reg) (imm : BitVec 16) : List Byte :=
  if bigEndian imm then toBytesBe (s.word rs1) else toBytesLe (s.word rs1)

/-- WST (R151): the word's `u` bytes into the slot of DOUT; the register keeps its value. -/
def execWst (rs1 : Reg) (imm : BitVec 16) (s : State) : Result :=
  whenLegal (slotImmLegal imm) Op.wst s <| whenConfigured Op.wst s <|
    .next ((s.setDout (s.slotBase imm) (s.storeBytes rs1 imm)).finish Op.wst)

end Sys2Proof.Machine
end

