-- ==== Sys2Proof/Machine/BlockCommands.lean ====
section
/-! DEFINITION. The block commands ENCODE and DECODE (rules R250 and R251). -/

namespace Sys2Proof.Machine

/-- The frame of both block commands (R250, R251): the checks in order, one block from DIN[0..2u-1] through
`transform`, the result to DOUT[0..2u-1]. A DIN byte not written since reset is a fault (R40). DOUT[2u..31] keep their
values, as R34, R250 and R327 say, where U4 lists them as any value on a host read (DEDUCED: the rules are followed, log
entry 16; unsafe if U4 is right). -/
def blockCommand (op : BitVec 8) (s : State) (transform : Block s.w → Block s.w) : Result :=
  whenReady op s <|
    if s.dlen.toNat ≠ 2 * s.u then .next (s.raise .length op)
    else
      match s.dinBytes 0 (2 * s.u) with
      | none => .fault .unwrittenInputByte
      | some bytes =>
        .next ((s.setDout 0 (bytesOfBlock (transform (blockOfBytes s.w bytes)))).finish op)

/-- ENCODE (R250). -/
def execEncode (s : State) : Result := blockCommand Op.encode s (encodeBlock s.roundKey s.r)

/-- DECODE (R251). -/
def execDecode (s : State) : Result := blockCommand Op.decode s (decodeBlock s.roundKey s.r)

end Sys2Proof.Machine
end

