-- ==== Sys2Proof/Machine/Dispatch.lean ====
section
/-! DEFINITION. One arm per command, each one call of its meaning. -/

namespace Sys2Proof.Machine

def exec (i : Instr) (s : State) : Host.Outcome State Fault Refusal :=
  match i with
  | .nop => Sys2Proof.Machine.execNop s
  | .config wsel r b => Sys2Proof.Machine.execConfig wsel r b s
  | .setup => Sys2Proof.Machine.execSetup s
  | .encode => Sys2Proof.Machine.execEncode s
  | .decode => Sys2Proof.Machine.execDecode s
  | .zero rd => Sys2Proof.Machine.execZero rd s
  | .ldi rd imm => Sys2Proof.Machine.execLdi rd imm s
  | .ldp rd => Sys2Proof.Machine.execLdp rd s
  | .ldq rd => Sys2Proof.Machine.execLdq rd s
  | .add rd rs1 rs2 => Sys2Proof.Machine.execAdd rd rs1 rs2 s
  | .sub rd rs1 rs2 => Sys2Proof.Machine.execSub rd rs1 rs2 s
  | .xor rd rs1 rs2 => Sys2Proof.Machine.execXor rd rs1 rs2 s
  | .or rd rs1 rs2 => Sys2Proof.Machine.execOr rd rs1 rs2 s
  | .rol rd rs1 rs2 => Sys2Proof.Machine.execRol rd rs1 rs2 s
  | .ror rd rs1 rs2 => Sys2Proof.Machine.execRor rd rs1 rs2 s
  | .roli rd rs1 imm => Sys2Proof.Machine.execRoli rd rs1 imm s
  | .rori rd rs1 imm => Sys2Proof.Machine.execRori rd rs1 imm s
  | .low32 rd rs1 => Sys2Proof.Machine.execLow32 rd rs1 s
  | .wld rd imm => Sys2Proof.Machine.execWld rd imm s
  | .wst rs1 imm => Sys2Proof.Machine.execWst rs1 imm s
  | .rds rd imm => Sys2Proof.Machine.execRds rd imm s

end Sys2Proof.Machine
end

