-- ==== Sys2Proof/Machine/Bus.lean ====
section
/-! DEFINITION. The host's side of the register window (rules R23 to R34 and R60 to R76): which register an offset names,
bus reads, bus writes, and the reset input (R310, R311). -/

namespace Sys2Proof.Machine

/-- The registers of the window (R23). `din m`, `dout m` and `key m` are DINm, DOUTm and KEYm. -/
inductive BusReg where
  | id | param | cmd | status | cfgr | dlen | klen
  | din (m : Nat)
  | dout (m : Nat)
  | key (m : Nat)
  | reserved
  deriving DecidableEq, Repr

/-- The offset an access is at: address bits [1:0] are ignored (R60, R68). -/
def alignOffset (a : BitVec 12) : Nat := 4 * (a.toNat / 4)

/-- The register an access at offset `a` reaches (R23). -/
def busReg (a : BitVec 12) : BusReg :=
  let o := alignOffset a
  if o = 0x000 then .id
  else if o = 0x004 then .param
  else if o = 0x008 then .cmd
  else if o = 0x00C then .status
  else if o = 0x010 then .cfgr
  else if o = 0x014 then .dlen
  else if o = 0x018 then .klen
  else if 0x020 ≤ o ∧ o ≤ 0x03C then .din ((o - 0x020) / 4)
  else if 0x040 ≤ o ∧ o ≤ 0x05C then .dout ((o - 0x040) / 4)
  else if 0x100 ≤ o ∧ o ≤ 0x1FC then .key ((o - 0x100) / 4)
  else .reserved

/-- Four bytes as a register: byte `k` in bits [8k+7:8k] (R64). -/
def packBytes (b0 b1 b2 b3 : Byte) : BitVec 32 := bitsAt 0 b0 ||| bitsAt 8 b1 ||| bitsAt 16 b2 ||| bitsAt 24 b3

/-- The four bytes of a register's value, byte 0 first (R64). -/
def unpackBytes (v : BitVec 32) : List Byte :=
  [v.extractLsb' 0 8, v.extractLsb' 8 8, v.extractLsb' 16 8, v.extractLsb' 24 8]

/-- The `k`-th free byte of the next bus read (log entry 5). -/
def State.freeLane (s : State) (k : Nat) : Byte := Config.freeByte (s.draws + k)

/-- The byte a host read returns in lane `k`, for the byte at offset `a`: the byte, or any value if nothing has
written it since reset (R40). -/
def State.lane (s : State) (a k : Nat) : Byte := (s.mem.read (a + k)).getD (s.freeLane k)

/-- The buffer register whose byte 0 is at offset `a`, as a host read returns it (R62, R64). -/
def State.bufferWord (s : State) (a : Nat) : BitVec 32 :=
  packBytes (s.lane a 0) (s.lane a 1) (s.lane a 2) (s.lane a 3)

/-- Any 32-bit value: a DOUT read while BUSY = 1 (R62, R67). -/
def State.freeWord (s : State) : BitVec 32 :=
  packBytes (s.freeLane 0) (s.freeLane 1) (s.freeLane 2) (s.freeLane 3)

/-- The value a bus read of a register returns (R62). -/
def State.regValue (s : State) : BusReg → BitVec 32
  | .id => Config.identification
  | .param => s.paramWord
  | .cmd => 0#32
  | .status => s.statusWord
  | .cfgr => s.cfgrWord
  | .dlen => s.dlen.setWidth 32
  | .klen => s.klen.setWidth 32
  | .din m => s.bufferWord (dinBase + 4 * m)
  | .dout m => if s.busy then s.freeWord else s.bufferWord (doutBase + 4 * m)
  | .key m => s.bufferWord (keyBase + 4 * m)
  | .reserved => 0#32

/-- `MemRead(a, 4)` (R62): the value goes to the host, and no state of the engine changes (R69). -/
def State.busRead (a : BitVec 12) (s : State) : State :=
  { s with replies := s.replies ++ [s.regValue (busReg a)], draws := s.draws + 4 }

/-- A CMD write with BUSY = 0 issues a command (R26). -/
def State.issue (c : BitVec 32) (s : State) : State := { s with pend := some c }

/-- The effect of a bus write to a register with BUSY = 0 (R63). -/
def State.writeReg (s : State) (v : BitVec 32) : BusReg → State
  | .id => s
  | .param => s
  | .cmd => s.issue v
  | .status => s.clearSticky v
  | .cfgr => s
  | .dlen => { s with dlen := v.setWidth 6 }
  | .klen => { s with klen := v.setWidth 9 }
  | .din m => { s with mem := s.mem.writeBytes (dinBase + 4 * m) (unpackBytes v) }
  | .dout _ => s
  | .key m => { s with mem := s.mem.writeBytes (keyBase + 4 * m) (unpackBytes v) }
  | .reserved => s

/-- `MemWrite(a, 4, v)` (R63): dropped while BUSY = 1 (R66). -/
def State.busWrite (a : BitVec 12) (v : BitVec 32) (s : State) : State :=
  if s.busy then s.markOverrun else s.writeReg v (busReg a)

/-- The reset input (R310, R311): every piece of the engine's state at its reset value, a pending command abandoned. The
build and the host's side (events, replies, free bytes set aside) are not the engine's state. -/
def State.resetInput (s : State) : State :=
  { State.resetFor s.params with events := s.events, replies := s.replies, draws := s.draws }

end Sys2Proof.Machine
end

