-- ==== Sys2Proof/Machine/Turn.lean ====
section
/-! DEFINITION. One step of the whole machine: the next event of the total order of R72, or, when no event is left, the
engine's completion of the pending command (R35, R320). -/

namespace Sys2Proof.Machine

/-- The engine completes the command word `c` in one atomic step (R35): the decoded command, or the error ILLEGAL for
an illegal word, with the word's OP byte in LASTOP (R97, R283). -/
def complete (c : BitVec 32) (s : State) : Result :=
  match decode c with
  | .ok i => exec i s
  | .error _ => .next (s.raise .illegal (opField c))

/-- The engine's turn: complete the pending command; with BUSY = 0 the engine is idle and keeps all state (R298). -/
def engineTurn (s : State) : Result :=
  match s.pend with
  | none => .next s
  | some c => complete c s

/-- The next step: the next event, or the engine's turn when none is left. A pending command thus completes after any
number of host accesses, as the events say, and completes eventually (R320). -/
def turn (s : State) : Result :=
  match s.events with
  | [] => engineTurn s
  | .complete :: rest => engineTurn { s with events := rest }
  | .read a :: rest => .next (State.busRead a { s with events := rest })
  | .write a v :: rest => .next (State.busWrite a v { s with events := rest })
  | .reset :: rest => .next (State.resetInput { s with events := rest })

/-- `c` in flight and the engine's turn next (R26, R35): what the host's issue of `c` and the choice that the completion
falls next leave. -/
def State.withPending (c : BitVec 32) (s : State) : State :=
  { s with pend := some c, events := .complete :: s.events }

end Sys2Proof.Machine
end

