-- ==== Sys2Proof/Machine/Step.lean ====
section
/-! DEFINITION. The step of the machine, and the placing of a command where the next step runs it. -/

namespace Sys2Proof.Machine

/-- One step (R72). -/
def step (s : State) : Host.Outcome State Fault Refusal := turn s

/-- `s` with the command word whose bits are `w` pending and the engine's completion next, so that the next step runs
that command (log entry 2). -/
def State.withFetchWord (s : State) (nbits w : Nat) : State := s.withPending (tableWord nbits w)

end Sys2Proof.Machine
end

