-- ==== Sys2Proof/Machine/Assembler.lean ====
section
/-! DEFINITION. The assembly forms of rule R99 and the pseudo-operations of rule R100. They have no effect on the machine
(D41): an assembly line stands for a command, and a host operation for bus accesses. -/

namespace Sys2Proof.Machine

/-- One line of assembly (R99), its operands as written, and the pseudo-instructions MOV and CLR (R100). A `be` flag stands
for the suffix `.BE`. -/
inductive AsmLine where
  | nop | setup | encode | decode
  | config (w r b : Nat)
  | zero (d : Nat) | ldp (d : Nat) | ldq (d : Nat)
  | ldi (d imm : Nat)
  | add (d s t : Nat) | sub (d s t : Nat) | xor (d s t : Nat) | or (d s t : Nat) | rol (d s t : Nat) | ror (d s t : Nat)
  | roli (d s imm : Nat) | rori (d s imm : Nat)
  | low32 (d s : Nat)
  | wld (be : Bool) (d slot : Nat)
  | wst (be : Bool) (s slot : Nat)
  | rds (d index : Nat)
  | mov (d s : Nat)
  | clr (d : Nat)
  deriving DecidableEq, Repr

/-- A register operand `x0` to `x7`. -/
def asmReg (n : Nat) : Option Reg := if h : n < 8 then some ⟨n, h⟩ else none

/-- An operand that must fit `k` bits: an assembler rejects one that does not (R99). -/
def asmField (k n : Nat) : Option (BitVec k) := if n < 2 ^ k then some (BitVec.ofNat k n) else none

/-- A width written in bits (R99): its index in the list of R92. -/
def asmWidth (w : Nat) : Option (BitVec 3) :=
  if w = 8 then some 0#3
  else if w = 16 then some 1#3
  else if w = 24 then some 2#3
  else if w = 32 then some 3#3
  else if w = 64 then some 4#3
  else if w = 80 then some 5#3
  else if w = 128 then some 6#3
  else none

/-- The immediate of WLD and WST: `slot + 2 * BE`, with `slot` 0 or 1 (R99). -/
def asmSlot (be : Bool) (slot : Nat) : Option (BitVec 16) :=
  if slot < 2 then some (BitVec.ofNat 16 (slot + 2 * be.toNat)) else none

/-- The command an assembly line stands for; none where an assembler rejects it (R99, R100). -/
def assemble : AsmLine → Option Instr
  | .nop => some .nop
  | .setup => some .setup
  | .encode => some .encode
  | .decode => some .decode
  | .config w r b => do return .config (← asmWidth w) (← asmField 8 r) (← asmField 12 b)
  | .zero d => do return .zero (← asmReg d)
  | .ldp d => do return .ldp (← asmReg d)
  | .ldq d => do return .ldq (← asmReg d)
  | .ldi d imm => do return .ldi (← asmReg d) (← asmField 16 imm)
  | .add d s t => do return .add (← asmReg d) (← asmReg s) (← asmReg t)
  | .sub d s t => do return .sub (← asmReg d) (← asmReg s) (← asmReg t)
  | .xor d s t => do return .xor (← asmReg d) (← asmReg s) (← asmReg t)
  | .or d s t => do return .or (← asmReg d) (← asmReg s) (← asmReg t)
  | .rol d s t => do return .rol (← asmReg d) (← asmReg s) (← asmReg t)
  | .ror d s t => do return .ror (← asmReg d) (← asmReg s) (← asmReg t)
  | .roli d s imm => do return .roli (← asmReg d) (← asmReg s) (← asmField 16 imm)
  | .rori d s imm => do return .rori (← asmReg d) (← asmReg s) (← asmField 16 imm)
  | .low32 d s => do return .low32 (← asmReg d) (← asmReg s)
  | .wld be d slot => do return .wld (← asmReg d) (← asmSlot be slot)
  | .wst be s slot => do return .wst (← asmReg s) (← asmSlot be slot)
  | .rds d index => do return .rds (← asmReg d) (← asmField 16 index)
  | .mov d s => do return .or (← asmReg d) (← asmReg s) (← asmReg s)
  | .clr d => do return .zero (← asmReg d)

/-- `CMD c`: the host's write of the command word to CMD (R100). -/
def hostCommand (i : Instr) : Event := .write 0x008#12 (encode i)

/-- The run of `CMD c; WAIT` in which the completion falls before the first read of STATUS: the write, the completion, and
the read that sees BUSY = 0 (R100, R320). -/
def commandAndWait (i : Instr) : List Event := [hostCommand i, .complete, .read 0x00C#12]

end Sys2Proof.Machine
end

