-- ==== Sys2Proof/Machine/RunEnd.lean ====
section
/-! DEFINITION. The end of a host program's run and what can be observed of it then (rule R323). -/

namespace Sys2Proof.Machine

/-- A host access, as against the engine's completion and the platform's reset input (R72). -/
def Event.isAccess : Event → Bool
  | .read _ => true
  | .write _ _ => true
  | .complete => false
  | .reset => false

/-- A state at which a run can end: the host has no further access to make and BUSY = 0 (R323). A completion or a reset
still to come is no access. -/
def State.ended (s : State) : Bool := !s.events.any Event.isAccess && !s.busy

/-- The bytes of a buffer from offset `base` on, `none` for one that has not been written since reset (R323, R40; log
entry 15). -/
def State.bufferBytes (s : State) (base n : Nat) : List (Option Byte) := (List.range n).map fun k => s.mem.read (base + k)

/-- The observable outcome of a run (R323). It says nothing of x0 to x7, S, L or time. -/
structure Observation where
  /-- STATUS as read. -/
  status : BitVec 32
  /-- CFGR as read. -/
  cfgr : BitVec 32
  /-- DLEN. -/
  dlen : BitVec 6
  /-- KLEN. -/
  klen : BitVec 9
  /-- DIN[0..31]; `none` for a byte that is not readable. -/
  din : List (Option Byte)
  /-- DOUT[0..31]; `none` for a byte that is not readable. -/
  dout : List (Option Byte)
  /-- KEY[0..255]; `none` for a byte that is not readable. -/
  keybuf : List (Option Byte)
  deriving DecidableEq, Repr

/-- What a state shows (R323). -/
def State.observation (s : State) : Observation :=
  { status := s.statusWord
    cfgr := s.cfgrWord
    dlen := s.dlen
    klen := s.klen
    din := s.bufferBytes dinBase blkBytes
    dout := s.bufferBytes doutBase blkBytes
    keybuf := s.bufferBytes keyBase keybufBytes }

/-- The observable outcome, where the run has ended (R323). -/
def State.outcome (s : State) : Option Observation := if s.ended then some s.observation else none

end Sys2Proof.Machine
end

