-- ==== Sys2Proof/Safety.lean ====
section
/-! DEFINITION. What a state of the engine always satisfies (the invariant of rules R8, R21, R29, R31, R32 and of the
canonical memory), the end of a run (R323), and a safe run. -/

namespace Sys2Proof.Machine

/-- The engine's invariant. Every field is a sentence of the spec about every state a run can reach. -/
structure State.Inv (s : State) : Prop where
  /-- The memory is in canonical form. -/
  memCanonical : s.mem.wf = true
  /-- The memory lists only bytes of KEYBUF, DIN and DOUT (R61). -/
  memBuffers : ∀ e ∈ s.mem, isBufferByte e.1 = true
  /-- `RMAX` is in 1..255 (R8). -/
  rmaxPositive : 1 ≤ s.params.rmax.toNat
  /-- Every register holds a word of the current width (R21). -/
  registersHoldWords : ∀ r : Reg, (s.x.get r).toNat < 2 ^ s.w
  /-- In UNCFG the configuration and the registers have their reset values (R29, R40). -/
  unconfigured : s.phase = .uncfg →
    s.cfgWsel = .w8 ∧ s.cfgR = 0#8 ∧ s.cfgB = 0#12 ∧ s.x = Vector.replicate 8 0#128
  /-- Once configured, CFG_R is in 1..`RMAX` and CFG_B in 0..`KEY_BOUND` (R29). -/
  configured : s.phase ≠ .uncfg →
    1 ≤ s.r ∧ s.r ≤ s.params.rmax.toNat ∧ s.b ≤ s.params.keyBound.toNat
  /-- Every defined entry of S is a word of the current width (R31). -/
  roundKeysAreWords : ∀ k ∈ s.sTable, k.toNat < 2 ^ s.w
  /-- In READY exactly the entries 0..t-1 of S are defined: `|S| = t` (R31). -/
  roundKeysReady : s.phase = .ready → s.sTable.length = s.t
  /-- Before SETUP no entry of S is defined (R31). -/
  roundKeysUndefined : s.phase ≠ .ready → s.sTable = []
  /-- L holds no defined value between steps (R32). -/
  workingTableUndefined : s.lTable = []

/-- The run from `s` ends after `n` steps in `s'`: the first state where the host has no further access to make and
BUSY = 0 (R323). Its observable outcome is `s'.observation`. -/
def RunEnds (n : Nat) (s s' : State) : Prop :=
  Sys2Proof.core.run n s = Host.Outcome.next s' ∧ s'.ended = true ∧
    ∀ m, m < n → ∀ q : State, Sys2Proof.core.run m s = Host.Outcome.next q → q.ended = false

/-- A run of `n` steps from `s` is safe when none of its steps stops: no command consumes a byte nothing has written
(R328), and no command is refused. -/
def SafeRun (n : Nat) (s : State) : Prop := ∃ s' : State, Sys2Proof.core.run n s = Host.Outcome.next s'

end Sys2Proof.Machine
end

