-- ==== Sys2Proof/Certificates/Slice0/Obligations.lean ====
section
/-! DEFINITION. The statements for the provers, one per group of numbered rules of the spec, and the reference
arithmetic they are written in: the spec's own formulas on natural numbers, independent of the model's word types. -/

namespace Sys2Proof.Reference
open Sys2Proof.Machine

/-! The spec's formulas on numbers (rules R10, R121 to R132). -/

/-- `rotl_w(v, k)` (R126). -/
def rotl (w v k : Nat) : Nat := ((v * 2 ^ (k % w)) % 2 ^ w) ||| (v / 2 ^ (w - k % w))

/-- `rotr_w(v, k)` (R126). -/
def rotr (w v k : Nat) : Nat := (v / 2 ^ (k % w)) ||| ((v * 2 ^ (w - k % w)) % 2 ^ w)

/-- `rotamt_w(y) = low32(y) mod w` (R127). -/
def rotamt (w y : Nat) : Nat := (y % 2 ^ 32) % w

/-- `sub_w(a, b) = (a + (mask_w XOR b) + 1) mod 2^w` (R123). -/
def sub (w a b : Nat) : Nat := (a + ((2 ^ w - 1) ^^^ b) + 1) % 2 ^ w

/-- The constants `(Pw, Qw)` of the ROM table (R121). -/
def magic (w : Nat) : Nat × Nat :=
  if w = 8 then (0xB7, 0x9F)
  else if w = 16 then (0xB7E1, 0x9E37)
  else if w = 24 then (0xB7E151, 0x9E3779)
  else if w = 32 then (0xB7E15163, 0x9E3779B9)
  else if w = 64 then (0xB7E151628AED2A6B, 0x9E3779B97F4A7C15)
  else if w = 80 then (0xB7E151628AED2A6ABF71, 0x9E3779B97F4A7C15F39D)
  else (0xB7E151628AED2A6ABF7158809CF4F3C7, 0x9E3779B97F4A7C15F39CC0605CEDC835)

/-- `from_bytes_le` of the `n` bytes `bytes 0 .. bytes (n-1)` (R129). -/
def leNumber (n : Nat) (bytes : Nat → Byte) : Nat :=
  ((List.range n).map fun k => (bytes k).toNat * 256 ^ k).sum

/-- `from_bytes_be` of the `n` bytes `bytes 0 .. bytes (n-1)` (R130). -/
def beNumber (n : Nat) (bytes : Nat → Byte) : Nat :=
  ((List.range n).map fun k => (bytes k).toNat * 256 ^ (n - 1 - k)).sum

/-- The base-256 digit of weight `256^k`: byte `k` of `to_bytes_le_w(v)` (R131). -/
def digit (v k : Nat) : Byte := BitVec.ofNat 8 (v / 256 ^ k)

/-! The block transform on numbers, as the pseudocode of R250 and R251 writes it. -/

/-- Round `i` of ENCODE. -/
def encodeRound (w : Nat) (key : Nat → Nat) (p : Nat × Nat) (i : Nat) : Nat × Nat :=
  let a := (rotl w (p.1 ^^^ p.2) (rotamt w p.2) + key (2 * i)) % 2 ^ w
  let b := (rotl w (p.2 ^^^ a) (rotamt w a) + key (2 * i + 1)) % 2 ^ w
  (a, b)

/-- ENCODE's `A, B`: the whitening, then `for i in 1..=r`. -/
def encodeWords (w r : Nat) (key : Nat → Nat) (a b : Nat) : Nat × Nat :=
  (List.range' 1 r).foldl (encodeRound w key) ((key 0 + a) % 2 ^ w, (key 1 + b) % 2 ^ w)

/-- Round `i` of DECODE. -/
def decodeRound (w : Nat) (key : Nat → Nat) (p : Nat × Nat) (i : Nat) : Nat × Nat :=
  let b := rotr w (sub w p.2 (key (2 * i + 1))) (rotamt w p.1) ^^^ p.1
  let a := rotr w (sub w p.1 (key (2 * i))) (rotamt w b) ^^^ b
  (a, b)

/-- DECODE's `A, B`: `for i in r downto 1`, then the whitening. -/
def decodeWords (w r : Nat) (key : Nat → Nat) (a b : Nat) : Nat × Nat :=
  let p := (List.range' 1 r).reverse.foldl (decodeRound w key) (a, b)
  (sub w p.1 (key 0), sub w p.2 (key 1))

/-! The key schedule on numbers (R203 to R206). -/

/-- `L[j]` for a key of `b` bytes: the key packed little-endian into words (R204). -/
def packedWord (u b : Nat) (key : Nat → Byte) (j : Nat) : Nat :=
  leNumber (min u (b - j * u)) fun k => key (j * u + k)

/-- One iteration of the mixing loop, `n` counting from 0, on `(S, L, A, B)` (R206). -/
def mixIteration (w t c : Nat) (v : List Nat × List Nat × Nat × Nat) (n : Nat) :
    List Nat × List Nat × Nat × Nat :=
  match v with
  | (s, l, a, b) =>
    let a' := rotl w ((s.getD (n % t) 0 + a + b) % 2 ^ w) 3
    let b' := rotl w ((l.getD (n % c) 0 + a' + b) % 2 ^ w) (rotamt w ((a' + b) % 2 ^ w))
    (s.set (n % t) a', l.set (n % c) b', a', b')

/-- The final `S[0..t-1]` of RC5-w/r/b under a key (R203). -/
def keySchedule (w r b : Nat) (key : Nat → Byte) : List Nat :=
  let t := 2 * (r + 1)
  let c := max 1 ((8 * b + w - 1) / w)
  ((List.range (3 * max t c)).foldl (mixIteration w t c)
    ((List.range t).map fun i => ((magic w).1 + i * (magic w).2) % 2 ^ w,
      (List.range c).map (packedWord (w / 8) b key), 0, 0)).1

/-! Shapes of next states. -/

/-- The number in register `r`. -/
def val (s : State) (r : Reg) : Nat := (s.x.get r).toNat

/-- Every register holds a word of the current width (R21; a part of the invariant). -/
def RegistersHoldWords (s : State) : Prop := ∀ r : Reg, val s r < 2 ^ s.w

/-- The state after a word command with opcode byte `op` wrote the number `n` to register `rd` and finished: nothing else
changes (R138, R284). -/
def wrote (s : State) (op : BitVec 8) (rd : Reg) (n : Nat) : State :=
  { s with x := s.x.set rd.val (BitVec.ofNat 128 n) rd.isLt, ecode := .ok, lastop := op, pend := none }

/-- The state after an error completion: nothing else changes (R283). -/
def failed (s : State) (code : ErrCode) (op : BitVec 8) : State :=
  { s with ecode := code, lastop := op, err := true, pend := none }

/-- The state after a successful completion that changed only bytes of the buffers' memory (R284). -/
def stored (s : State) (op : BitVec 8) (mem : Memory) : State :=
  { s with mem := mem, ecode := .ok, lastop := op, pend := none }

/-- A word command: where an instance is configured it writes `n s` to `rd`, and nothing else but STATUS changes; in UNCFG
it fails with NOT_CONFIGURED (R138, R139). -/
def WordCommand (i : Instr) (op : BitVec 8) (rd : Reg) (n : State → Nat) : Prop :=
  ∀ s : State, RegistersHoldWords s →
    (s.phase ≠ .uncfg → exec i s = .next (wrote s op rd (n s))) ∧
    (s.phase = .uncfg → exec i s = .next (failed s .notConfigured op))

/-- The checks of ENCODE and DECODE, in order, what each failure leaves, and the fault on a DIN byte of the block that
nothing has written (R250, R251, R40). -/
def BlockChecks (i : Instr) (op : BitVec 8) : Prop :=
  ∀ s : State,
    (s.phase = .uncfg → exec i s = .next (failed s .notConfigured op)) ∧
    (s.phase = .cfgd → exec i s = .next (failed s .notReady op)) ∧
    (s.phase = .ready → s.dlen.toNat ≠ 2 * s.u → exec i s = .next (failed s .length op)) ∧
    (s.phase = .ready → s.dlen.toNat = 2 * s.u → (∃ k, k < 2 * s.u ∧ s.mem.read (dinBase + k) = none) →
      exec i s = .fault .unwrittenInputByte)

/-- A block command in READY, with DLEN right, the `2u` bytes of DIN written and the `t` round keys words: DOUT[0..2u-1]
gets the bytes of `f`'s words, and nothing else but STATUS changes (R250, R251, R65). -/
def BlockResult (i : Instr) (op : BitVec 8)
    (f : (w r : Nat) → (key : Nat → Nat) → (a b : Nat) → Nat × Nat) : Prop :=
  ∀ (s : State) (din : Nat → Byte) (key : Nat → Nat),
    s.phase = .ready → s.dlen.toNat = 2 * s.u →
    (∀ k, k < 2 * s.u → s.mem.read (dinBase + k) = some (din k)) →
    (∀ n, n < s.t → s.sTable[n]? = some (BitVec.ofNat 128 (key n)) ∧ key n < 2 ^ s.w) →
    ∃ mem : Memory,
      exec i s = .next (stored s op mem) ∧
      (∀ k, k < s.u → mem.read (doutBase + k) =
        some (digit (f s.w s.r key (leNumber s.u din) (leNumber s.u fun k => din (s.u + k))).1 k)) ∧
      (∀ k, k < s.u → mem.read (doutBase + s.u + k) =
        some (digit (f s.w s.r key (leNumber s.u din) (leNumber s.u fun k => din (s.u + k))).2 k)) ∧
      (∀ a, (a < doutBase ∨ doutBase + 2 * s.u ≤ a) → mem.read a = s.mem.read a)

/-! The opcode table of R96: match, mask. -/

def opcodeTable : List (BitVec 32 × BitVec 32) :=
  [(0x00000000#32, 0xFFFFFFFF#32), (0x00000001#32, 0x000008FF#32), (0x00000002#32, 0xFFFFFFFF#32),
   (0x00000003#32, 0xFFFFFFFF#32), (0x00000004#32, 0xFFFFFFFF#32), (0x00000010#32, 0xFFFFF8FF#32),
   (0x00000011#32, 0x0000F8FF#32), (0x00000012#32, 0xFFFFF8FF#32), (0x00000013#32, 0xFFFFF8FF#32),
   (0x00000020#32, 0xFFF888FF#32), (0x00000021#32, 0xFFF888FF#32), (0x00000022#32, 0xFFF888FF#32),
   (0x00000023#32, 0xFFF888FF#32), (0x00000024#32, 0xFFF888FF#32), (0x00000025#32, 0xFFF888FF#32),
   (0x00000026#32, 0x000088FF#32), (0x00000027#32, 0x000088FF#32), (0x00000028#32, 0xFFFF88FF#32),
   (0x00000030#32, 0xFFFCF8FF#32), (0x00000031#32, 0xFFFC8FFF#32), (0x00000032#32, 0x0000F8FF#32)]

/-- A word that encodes a command of the table: it matches a row, and CONFIG's WSEL is not 7 (R96). -/
def MatchesRow (c : BitVec 32) (row : BitVec 32 × BitVec 32) : Prop :=
  c &&& row.2 = row.1 ∧ (row.1 = 0x00000001#32 → c.extractLsb' 8 3 ≠ 7#3)

/-! Which step comes next. -/

/-- The next step completes the pending command (its event is next, or no event is left), and the command satisfies
`f`. -/
def Completes (s : State) (f : Instr → Prop) : Prop :=
  (s.events = [] ∨ ∃ rest, s.events = .complete :: rest) ∧ ∃ c i, s.pend = some c ∧ decode c = .ok i ∧ f i

/-- The next step is the reset input. -/
def NextIsReset (s : State) : Prop := ∃ rest, s.events = .reset :: rest

/-! Bus accesses. -/

/-- A host read at offset `a` returns `v` and changes nothing of the engine (R62, R69). -/
def ReadsAs (s : State) (a : BitVec 12) (v : Nat) : Prop :=
  ∀ rest : List Event,
    step { s with events := .read a :: rest } =
      .next { s with events := rest, replies := s.replies ++ [BitVec.ofNat 32 v], draws := s.draws + 4 }

/-- A host write of `v` at offset `a` takes the state to `s'`. -/
def WriteGives (s : State) (a : BitVec 12) (v : BitVec 32) (s' : State) : Prop :=
  ∀ rest : List Event, step { s with events := .write a v :: rest } = .next { s' with events := rest }

/-- The four bytes of a register as a number, byte 0 least significant (R64). -/
def wordOfBytes (b : Nat → Byte) : Nat :=
  (b 0).toNat + 2 ^ 8 * (b 1).toNat + 2 ^ 16 * (b 2).toNat + 2 ^ 24 * (b 3).toNat

/-- The four lanes of a read at offset `a`: the byte where it has been written since reset, the free byte set aside for
the lane where it has not (R40, R64). -/
def Lanes (s : State) (a : Nat) (b : Nat → Byte) : Prop :=
  ∀ k, k < 4 →
    s.mem.read (a + k) = some (b k) ∨ (s.mem.read (a + k) = none ∧ b k = Config.freeByte (s.draws + k))

/-- The code of a phase (R27). -/
def phaseNumber : Phase → Nat
  | .uncfg => 0
  | .cfgd => 1
  | .ready => 2

/-- The code of an error (R280). -/
def errNumber : ErrCode → Nat
  | .ok => 0
  | .keySize => 1
  | .length => 2
  | .illegal => 3
  | .notReady => 4
  | .notConfigured => 5
  | .badParam => 6
  | .index => 7

/-- The number of a width in the list of R92. -/
def widthNumber : Width → Nat
  | .w8 => 0
  | .w16 => 1
  | .w24 => 2
  | .w32 => 3
  | .w64 => 4
  | .w80 => 5
  | .w128 => 6

/-- The reserved offsets of the map (R23), for an offset with bits [1:0] cleared. -/
def reservedOffset (o : Nat) : Prop := o = 0x01C ∨ (0x060 ≤ o ∧ o ≤ 0x0FC) ∨ 0x200 ≤ o

end Sys2Proof.Reference

open Sys2Proof Sys2Proof.Machine Sys2Proof.Reference

/-! ### Encoding -/

/-- R91 to R96, R99: every command's word holds its fields at the places the formats give them and 0 elsewhere. -/
def Obligations.CommandWordsHoldTheirFields : Prop :=
  (∀ wsel r b, (encode (.config wsel r b)).toNat =
    0x01 + 2 ^ 8 * wsel.toNat + 2 ^ 12 * r.toNat + 2 ^ 20 * b.toNat) ∧
  ((encode .nop).toNat = 0x00 ∧ (encode .setup).toNat = 0x02 ∧ (encode .encode).toNat = 0x03 ∧
    (encode .decode).toNat = 0x04) ∧
  (∀ d : Reg, (encode (.zero d)).toNat = 0x10 + 2 ^ 8 * d.val ∧ (encode (.ldp d)).toNat = 0x12 + 2 ^ 8 * d.val ∧
    (encode (.ldq d)).toNat = 0x13 + 2 ^ 8 * d.val) ∧
  (∀ d a b : Reg,
    (encode (.add d a b)).toNat = 0x20 + 2 ^ 8 * d.val + 2 ^ 12 * a.val + 2 ^ 16 * b.val ∧
    (encode (.sub d a b)).toNat = 0x21 + 2 ^ 8 * d.val + 2 ^ 12 * a.val + 2 ^ 16 * b.val ∧
    (encode (.xor d a b)).toNat = 0x22 + 2 ^ 8 * d.val + 2 ^ 12 * a.val + 2 ^ 16 * b.val ∧
    (encode (.or d a b)).toNat = 0x23 + 2 ^ 8 * d.val + 2 ^ 12 * a.val + 2 ^ 16 * b.val ∧
    (encode (.rol d a b)).toNat = 0x24 + 2 ^ 8 * d.val + 2 ^ 12 * a.val + 2 ^ 16 * b.val ∧
    (encode (.ror d a b)).toNat = 0x25 + 2 ^ 8 * d.val + 2 ^ 12 * a.val + 2 ^ 16 * b.val ∧
    (encode (.low32 d a)).toNat = 0x28 + 2 ^ 8 * d.val + 2 ^ 12 * a.val) ∧
  (∀ (d a : Reg) (imm : BitVec 16),
    (encode (.ldi d imm)).toNat = 0x11 + 2 ^ 8 * d.val + 2 ^ 16 * imm.toNat ∧
    (encode (.roli d a imm)).toNat = 0x26 + 2 ^ 8 * d.val + 2 ^ 12 * a.val + 2 ^ 16 * imm.toNat ∧
    (encode (.rori d a imm)).toNat = 0x27 + 2 ^ 8 * d.val + 2 ^ 12 * a.val + 2 ^ 16 * imm.toNat ∧
    (encode (.wld d imm)).toNat = 0x30 + 2 ^ 8 * d.val + 2 ^ 16 * imm.toNat ∧
    (encode (.wst a imm)).toNat = 0x31 + 2 ^ 12 * a.val + 2 ^ 16 * imm.toNat ∧
    (encode (.rds d imm)).toNat = 0x32 + 2 ^ 8 * d.val + 2 ^ 16 * imm.toNat)

/-- R90 to R96: decoding the word of a legal command gives the command back, with every operand. -/
def Obligations.DecodeOfEncodeIsTheCommand : Prop :=
  ∀ i : Instr, i.wellFormed = true → decode (encode i) = .ok i

/-- R97: a word the decoder accepts is the word of the legal command it names; no word stands for two commands, and no bit
is ignored. -/
def Obligations.EncodeOfDecodeIsTheWord : Prop :=
  ∀ (c : BitVec 32) (i : Instr), decode c = .ok i → encode i = c ∧ i.wellFormed = true

/-- R96: a word `c` encodes a command exactly when `(c AND mask) = match` for a row of the table (and WSEL is not 7 for
CONFIG), and the command has that row's opcode byte. -/
def Obligations.DecodeAcceptsExactlyTheOpcodeTable : Prop :=
  ∀ (c : BitVec 32) (op : BitVec 8),
    (∃ i : Instr, decode c = .ok i ∧ i.opByte = op) ↔
      ∃ row ∈ opcodeTable, row.1.extractLsb' 0 8 = op ∧ MatchesRow c row

/-- R99 and the vectors of 95_test_vectors.md: words of the spec decode to the commands they stand for, one or more for
every family. -/
def Obligations.SpecWordsDecode : Prop :=
  decode 0x00000000#32 = .ok .nop ∧ decode 0x0100C301#32 = .ok (.config 3#3 12#8 16#12) ∧
  decode 0x00000002#32 = .ok .setup ∧ decode 0x00000003#32 = .ok .encode ∧
  decode 0x00190432#32 = .ok (.rds 4 25#16) ∧ decode 0xABCD0711#32 = .ok (.ldi 7 0xABCD#16) ∧
  decode 0x00032120#32 = .ok (.add 1 2 3) ∧ decode 0x00241226#32 = .ok (.roli 2 1 36#16) ∧
  decode 0x00030530#32 = .ok (.wld 5 3#16) ∧ decode 0x00017031#32 = .ok (.wst 7 1#16)

/-- R99: an assembly line that is not rejected stands for a legal command, and the rule's examples have the rule's
words. -/
def Obligations.AssembledLinesAreLegalCommands : Prop :=
  (∀ (line : AsmLine) (i : Instr), assemble line = some i → i.wellFormed = true) ∧
  (assemble (.config 32 12 16)).map encode = some 0x0100C301#32 ∧
  (assemble (.add 1 2 3)).map encode = some 0x00032120#32 ∧
  (assemble (.wld true 5 1)).map encode = some 0x00030530#32

/-! ### Steps, completions and errors -/

/-- R35, R72: when the word in flight decodes to a command and the engine's turn comes (no event left, or the completion is
the next event), the step is that command's meaning on the state without the event. (The list of events is the model's
own, log entry 2.) -/
def Obligations.StepRunsTheDecodedCommand : Prop :=
  ∀ (s : State) (c : BitVec 32) (i : Instr), s.pend = some c → decode c = .ok i →
    (s.events = [] → step s = exec i s) ∧
    (∀ rest, s.events = .complete :: rest → step s = exec i { s with events := rest })

/-- R97, R283: a word that matches no row of the table completes with ILLEGAL and no other effect. -/
def Obligations.IllegalWordsCompleteWithIllegal : Prop :=
  ∀ (s : State) (c : BitVec 32), s.pend = some c → (∀ row ∈ opcodeTable, ¬ MatchesRow c row) →
    (s.events = [] → step s = .next (failed s .illegal (c.extractLsb' 0 8))) ∧
    (∀ rest, s.events = .complete :: rest →
      step s = .next (failed { s with events := rest } .illegal (c.extractLsb' 0 8)))

/-- R298: with BUSY = 0 and nothing from the host, the engine is idle and keeps all state. -/
def Obligations.IdleEngineKeepsAllState : Prop :=
  ∀ s : State, s.pend = none →
    (s.events = [] → step s = .next s) ∧
    (∀ rest, s.events = .complete :: rest → step s = .next { s with events := rest })

/-- R284, R283, R35: every completion of a command word, legal or not, clears BUSY and records the word's opcode byte; a
successful one leaves ERR as it was, one that reports an error sets it; OVR stays. -/
def Obligations.EveryCompletionRecordsItsOutcome : Prop :=
  ∀ (c : BitVec 32) (s s' : State), complete c s = .next s' →
    s'.pend = none ∧ s'.lastop = c.extractLsb' 0 8 ∧ (s'.ecode = .ok → s'.err = s.err) ∧
      (s'.ecode ≠ .ok → s'.err = true) ∧ s'.ovr = s.ovr

/-- R283: a completion that reports an error sets ECODE, LASTOP, ERR and BUSY and changes nothing else. -/
def Obligations.FailedCommandChangesOnlyStatus : Prop :=
  ∀ (c : BitVec 32) (s s' : State), complete c s = .next s' → s'.ecode ≠ .ok →
    s' = { s with ecode := s'.ecode, lastop := c.extractLsb' 0 8, err := true, pend := none }

/-- R281 (2), R201: in UNCFG every command but NOP and CONFIG fails with NOT_CONFIGURED. -/
def Obligations.UnconfiguredCommandsFail : Prop :=
  ∀ (i : Instr) (s : State), i.wellFormed = true → i ≠ .nop → (∀ wsel r b, i ≠ .config wsel r b) →
    s.phase = .uncfg → exec i s = .next (failed s .notConfigured i.opByte)

/-- R27: PHASE changes only by a successful CONFIG (to CFGD), a successful SETUP (to READY) and the reset input (to UNCFG):
first for the commands, then for every step. -/
def Obligations.PhaseChangesOnlyByConfigSetupOrReset : Prop :=
  (∀ (i : Instr) (s s' : State), exec i s = .next s' →
    (s'.ecode ≠ .ok → s'.phase = s.phase) ∧
    (∀ wsel r b, i = .config wsel r b → s'.ecode = .ok → s'.phase = .cfgd) ∧
    (i = .setup → s'.ecode = .ok → s'.phase = .ready) ∧
    ((∀ wsel r b, i ≠ .config wsel r b) → i ≠ .setup → s'.phase = s.phase)) ∧
  (∀ s s' : State, step s = .next s' → s'.phase ≠ s.phase →
    (Completes s (fun i => ∃ wsel r b, i = .config wsel r b) ∧ s'.ecode = .ok ∧ s'.phase = .cfgd) ∨
    (Completes s (fun i => i = .setup) ∧ s'.ecode = .ok ∧ s'.phase = .ready) ∨
    (NextIsReset s ∧ s'.phase = .uncfg))

/-- R9, R29, R31, R310: only CONFIG and the reset input write the configuration, and only CONFIG, SETUP and the reset input
change S and L: first for the commands, then for every step. No command and no step changes the build parameters. -/
def Obligations.OnlyConfigSetupOrResetChangeTheInstance : Prop :=
  (∀ (i : Instr) (s s' : State), exec i s = .next s' →
    s'.params = s.params ∧
    ((∀ wsel r b, i ≠ .config wsel r b) →
      s'.cfgWsel = s.cfgWsel ∧ s'.cfgR = s.cfgR ∧ s'.cfgB = s.cfgB) ∧
    ((∀ wsel r b, i ≠ .config wsel r b) → i ≠ .setup → s'.sTable = s.sTable ∧ s'.lTable = s.lTable)) ∧
  (∀ s s' : State, step s = .next s' →
    s'.params = s.params ∧
    (¬ Completes s (fun i => ∃ wsel r b, i = .config wsel r b) → ¬ NextIsReset s →
      s'.cfgWsel = s.cfgWsel ∧ s'.cfgR = s.cfgR ∧ s'.cfgB = s.cfgB) ∧
    (¬ Completes s (fun i => (∃ wsel r b, i = .config wsel r b) ∨ i = .setup) → ¬ NextIsReset s →
      s'.sTable = s.sTable ∧ s'.lTable = s.lTable))

/-- R33, R34: no command writes KEYBUF, DIN, KLEN or DLEN, and only ENCODE, DECODE and WST write DOUT. No command touches
the host's side. -/
def Obligations.CommandsWriteNoBufferButDout : Prop :=
  ∀ (i : Instr) (s s' : State), exec i s = .next s' →
    (∀ a, (a < doutBase ∨ doutBase + blkBytes ≤ a) → s'.mem.read a = s.mem.read a) ∧
    (i ≠ .encode → i ≠ .decode → (∀ rs1 imm, i ≠ .wst rs1 imm) → s'.mem = s.mem) ∧
    s'.dlen = s.dlen ∧ s'.klen = s.klen ∧ s'.events = s.events ∧ s'.replies = s.replies ∧ s'.draws = s.draws

/-- R21, R138: a command with an RD field leaves every register but that one, and a command without one, CONFIG apart,
leaves x0 to x7. -/
def Obligations.RegistersChangeOnlyAtTheDestination : Prop :=
  ∀ (i : Instr) (s s' : State), exec i s = .next s' → (∀ wsel r b, i ≠ .config wsel r b) →
    ∀ r : Reg, i.destination ≠ some r → s'.x.get r = s.x.get r

/-- R286: no command is refused, and no step is. -/
def Obligations.NothingIsRefused : Prop :=
  (∀ (i : Instr) (s : State) (r : Refusal), exec i s ≠ .refused r) ∧
  (∀ (s : State) (r : Refusal), step s ≠ .refused r)

/-- R40, R328: the only faults are SETUP on an unwritten key byte it reads, ENCODE or DECODE on an unwritten input byte of
the block, and WLD on an unwritten input byte of its slot. -/
def Obligations.FaultsOnlyOnUnwrittenBytes : Prop :=
  ∀ (i : Instr) (s : State) (f : Fault), exec i s = .fault f →
    (f = .unwrittenKeyByte ∧ i = .setup ∧ ∃ k, k < s.b ∧ s.mem.read (keyBase + k) = none) ∨
    (f = .unwrittenInputByte ∧ (i = .encode ∨ i = .decode) ∧
      ∃ k, k < 2 * s.u ∧ s.mem.read (dinBase + k) = none) ∨
    (f = .unwrittenInputByte ∧ ∃ d imm, i = .wld d imm ∧
      ∃ k, k < s.u ∧ s.mem.read (dinBase + imm.toNat % 2 * s.u + k) = none)

/-- R286, R320, R323, R328: in a state that meets the invariant and has every byte of KEYBUF and DIN written, and with no
reset to come, no run stops with a fault or a refusal; from every state of it BUSY = 0 is reached again; and the run
reaches its end. (The bound counts the events still to come, log entry 2.) -/
def Obligations.WrittenBuffersNeverFault : Prop :=
  ∀ s : State, s.Inv →
    (∀ k, k < blkBytes → s.mem.read (dinBase + k) ≠ none) →
    (∀ k, k < keybufBytes → s.mem.read (keyBase + k) ≠ none) →
    Event.reset ∉ s.events →
    (∀ n, SafeRun n s) ∧
    (∀ (n : Nat) (s' : State), Sys2Proof.core.run n s = Host.Outcome.next s' →
      ∃ m, m ≤ s'.events.length + 1 ∧
        ∃ s'' : State, Sys2Proof.core.run m s' = Host.Outcome.next s'' ∧ s''.busy = false) ∧
    (∃ n, n ≤ s.events.length + 1 ∧ ∃ s' : State, RunEnds n s s')

/-- R320: with no reset to come, a pending command completes, with its opcode byte in LASTOP, or stops the model on an
unwritten byte, after finitely many steps: within one more than the number of events still to come (log entry 2). -/
def Obligations.PendingCommandCompletes : Prop :=
  ∀ (s : State) (c : BitVec 32), s.pend = some c → Event.reset ∉ s.events →
    ∃ n, n ≤ s.events.length + 1 ∧
      ((∃ f : Fault, Sys2Proof.core.run n s = Host.Outcome.fault f) ∨
        ∃ s' : State, Sys2Proof.core.run n s = Host.Outcome.next s' ∧ s'.busy = false ∧
          s'.lastop = c.extractLsb' 0 8)

/-! ### The lifecycle commands -/

/-- R200: NOP completes with success in every phase and changes nothing else. -/
def Obligations.NopOnlyCompletes : Prop :=
  ∀ s : State, exec .nop s = .next { s with ecode := .ok, lastop := 0x00#8, pend := none }

/-- R202: CONFIG with a legal WSEL: BAD_PARAM, then KEY_SIZE, else the new instance: the configuration written, x0 to x7
cleared, S undefined, phase CFGD, nothing else changed. WSEL 7 is ILLEGAL. -/
def Obligations.ConfigCreatesAnInstance : Prop :=
  ∀ (wsel : BitVec 3) (r : BitVec 8) (b : BitVec 12) (s : State),
    (wsel = 7#3 → exec (.config wsel r b) s = .next (failed s .illegal 0x01#8)) ∧
    (wsel ≠ 7#3 → (r.toNat = 0 ∨ s.params.rmax.toNat < r.toNat) →
      exec (.config wsel r b) s = .next (failed s .badParam 0x01#8)) ∧
    (wsel ≠ 7#3 → 1 ≤ r.toNat → r.toNat ≤ s.params.rmax.toNat → s.params.keyBound.toNat < b.toNat →
      exec (.config wsel r b) s = .next (failed s .keySize 0x01#8)) ∧
    (wsel ≠ 7#3 → 1 ≤ r.toNat → r.toNat ≤ s.params.rmax.toNat → b.toNat ≤ s.params.keyBound.toNat →
      ∃ s' : State, exec (.config wsel r b) s = .next s' ∧
        s'.w = [8, 16, 24, 32, 64, 80, 128].getD wsel.toNat 0 ∧ widthCode s'.cfgWsel = wsel ∧
        s' = { s with
          cfgWsel := s'.cfgWsel, cfgR := r, cfgB := b, x := Vector.replicate 8 0#128, sTable := [],
          phase := .cfgd, ecode := .ok, lastop := 0x01#8, pend := none })

/-- R207 with R203 to R206: SETUP fails with NOT_CONFIGURED, then KEY_SIZE; a key byte it reads that nothing has written is
a fault; else S is the key schedule of KEY[0..b-1] as the spec's formulas give it, L is undefined, the phase is READY, and
nothing else changes. (That a table without defined values is `[]` is the model's own, log entry 7.) -/
def Obligations.SetupComputesTheKeySchedule : Prop :=
  (∀ s : State, s.phase = .uncfg → exec .setup s = .next (failed s .notConfigured 0x02#8)) ∧
  (∀ s : State, s.phase ≠ .uncfg → s.klen.toNat ≠ s.b →
    exec .setup s = .next (failed s .keySize 0x02#8)) ∧
  (∀ s : State, s.phase ≠ .uncfg → s.klen.toNat = s.b → (∃ k, k < s.b ∧ s.mem.read (keyBase + k) = none) →
    exec .setup s = .fault .unwrittenKeyByte) ∧
  (∀ (s : State) (key : Nat → Byte), s.phase ≠ .uncfg → s.klen.toNat = s.b →
    (∀ k, k < s.b → s.mem.read (keyBase + k) = some (key k)) →
    exec .setup s = .next { s with
      sTable := (Reference.keySchedule s.w s.r s.b key).map (BitVec.ofNat 128), lTable := [],
      phase := .ready, ecode := .ok, lastop := 0x02#8, pend := none })

/-- R208: RDS fails with NOT_CONFIGURED, NOT_READY, then INDEX; else it copies the round key of that index, and nothing
else changes. -/
def Obligations.RdsReadsOneRoundKey : Prop :=
  ∀ (d : Reg) (imm : BitVec 16) (s : State),
    (s.phase = .uncfg → exec (.rds d imm) s = .next (failed s .notConfigured 0x32#8)) ∧
    (s.phase = .cfgd → exec (.rds d imm) s = .next (failed s .notReady 0x32#8)) ∧
    (s.phase = .ready → s.t ≤ imm.toNat → exec (.rds d imm) s = .next (failed s .index 0x32#8)) ∧
    (∀ k : Nat, s.phase = .ready → imm.toNat < s.t → k < 2 ^ s.w →
      s.sTable[imm.toNat]? = some (BitVec.ofNat 128 k) →
      exec (.rds d imm) s = .next (wrote s 0x32#8 d k))

/-- R204: the loop that generates L packs the key little-endian into words, the last word padded with zero bytes. -/
def Obligations.GeneratedLIsThePackedKey : Prop :=
  ∀ (wd : Width) (key : List Byte),
    (generateL (widthBits wd) (max 1 ((8 * key.length + widthBits wd - 1) / widthBits wd)) key).map BitVec.toNat =
      (List.range (max 1 ((8 * key.length + widthBits wd - 1) / widthBits wd))).map
        (packedWord (widthBits wd / 8) key.length fun k => key.getD k 0)

/-- R205: `S[i] = (Pw + i*Qw) mod 2^w` for `i` in `0..t-1`. -/
def Obligations.GeneratedSIsArithmetic : Prop :=
  ∀ (w t : Nat) (p q : Word w),
    (generateS p q t).map BitVec.toNat = (List.range t).map fun i => (p.toNat + i * q.toNat) % 2 ^ w

/-- R203: S depends on the configuration and the key bytes alone: two states that agree on these give the same table. -/
def Obligations.KeyScheduleDependsOnlyOnTheKey : Prop :=
  ∀ s1 s2 s1' s2' : State, s1.cfgWsel = s2.cfgWsel → s1.cfgR = s2.cfgR → s1.cfgB = s2.cfgB →
    (∀ k, k < s1.b → s1.mem.read (keyBase + k) = s2.mem.read (keyBase + k)) →
    exec .setup s1 = .next s1' → exec .setup s2 = .next s2' → s1'.ecode = .ok → s2'.ecode = .ok →
    s1'.sTable = s2'.sTable

/-- R325: after a successful CONFIG, ENCODE, DECODE and RDS fail with NOT_READY. -/
def Obligations.ConfigInvalidatesTheRoundKeys : Prop :=
  ∀ (wsel : BitVec 3) (r : BitVec 8) (b : BitVec 12) (s s' : State),
    exec (.config wsel r b) s = .next s' → s'.ecode = .ok →
    exec .encode s' = .next (failed s' .notReady 0x03#8) ∧ exec .decode s' = .next (failed s' .notReady 0x04#8) ∧
      ∀ d imm, exec (.rds d imm) s' = .next (failed s' .notReady 0x32#8)

/-! ### The word unit -/

/-- R121: every Pw of the ROM is the odd integer nearest to `(e - 2) * 2^w`. -/
def Obligations.RomPIsTheNearestOddInteger : Prop :=
  ∀ wd : Width, romP wd % 2 = 1 ∧ ∀ m : ℤ, m % 2 = 1 →
    |(romP wd : ℝ) - (Real.exp 1 - 2) * 2 ^ widthBits wd| ≤ |(m : ℝ) - (Real.exp 1 - 2) * 2 ^ widthBits wd|

/-- R121: every Qw of the ROM is the odd integer nearest to `(phi - 1) * 2^w`, `phi = (1 + sqrt 5) / 2`. -/
def Obligations.RomQIsTheNearestOddInteger : Prop :=
  ∀ wd : Width, romQ wd % 2 = 1 ∧ ∀ m : ℤ, m % 2 = 1 →
    |(romQ wd : ℝ) - ((1 + Real.sqrt 5) / 2 - 1) * 2 ^ widthBits wd| ≤
      |(m : ℝ) - ((1 + Real.sqrt 5) / 2 - 1) * 2 ^ widthBits wd|

/-- R136: the laws of the primitives, at every width. -/
def Obligations.WordUnitLaws : Prop :=
  ∀ (w : Nat) (x y : Word w) (k : Nat),
    rotlW x w = x ∧ rotlW (rotrW x k) k = x ∧ rotrW (rotlW x k) k = x ∧ subW (addW x y) y = x ∧
    addW (subW x y) y = x ∧ xorW (xorW x y) y = x ∧ addW (BitVec.allOnes w) 1 = 0

/-- R129 to R132: a word's bytes give the word back in either order, and the big-endian bytes are the little-endian
bytes reversed, at every supported width. -/
def Obligations.BytesOfAWordGiveItBack : Prop :=
  ∀ (wd : Width) (v : Word (widthBits wd)),
    fromBytesLe (widthBits wd) (toBytesLe v) = v ∧ fromBytesBe (widthBits wd) (toBytesBe v) = v ∧
      toBytesBe v = (toBytesLe v).reverse

/-- R140 to R143: ZERO, LDI, LDP and LDQ. -/
def Obligations.LoadCommandsWriteTheirConstant : Prop :=
  (∀ d, WordCommand (.zero d) 0x10#8 d fun _ => 0) ∧
  (∀ d imm, WordCommand (.ldi d imm) 0x11#8 d fun s => imm.toNat % 2 ^ s.w) ∧
  (∀ d, WordCommand (.ldp d) 0x12#8 d fun s => (magic s.w).1) ∧
  (∀ d, WordCommand (.ldq d) 0x13#8 d fun s => (magic s.w).2)

/-- R144 with R122, R145 with R123: ADD and SUB modulo `2^w`; no flag is written. -/
def Obligations.AddAndSubAreModular : Prop :=
  (∀ d a b, WordCommand (.add d a b) 0x20#8 d fun s => (val s a + val s b) % 2 ^ s.w) ∧
  (∀ d a b, WordCommand (.sub d a b) 0x21#8 d fun s => Reference.sub s.w (val s a) (val s b)) ∧
  (∀ d a b, WordCommand (.sub d a b) 0x21#8 d fun s => (val s a + 2 ^ s.w - val s b) % 2 ^ s.w)

/-- R146 with R124, R147 with R125: XOR and OR, bit by bit. -/
def Obligations.XorAndOrAreBitwise : Prop :=
  (∀ d a b, WordCommand (.xor d a b) 0x22#8 d fun s => val s a ^^^ val s b) ∧
  (∀ d a b, WordCommand (.or d a b) 0x23#8 d fun s => val s a ||| val s b)

/-- R148 and R149 with R126 and R127: ROL and ROR by the low 32 bits of the second source, reduced mod `w`. -/
def Obligations.RotatesByARegisterAmount : Prop :=
  (∀ d a b, WordCommand (.rol d a b) 0x24#8 d fun s => rotl s.w (val s a) (rotamt s.w (val s b))) ∧
  (∀ d a b, WordCommand (.ror d a b) 0x25#8 d fun s => rotr s.w (val s a) (rotamt s.w (val s b)))

/-- R100: MOV copies a register exactly, and CLR clears one; nothing else but STATUS changes. -/
def Obligations.MovAndClrAreExact : Prop :=
  ∀ d a : Reg, ∃ i j : Instr, assemble (.mov d.val a.val) = some i ∧ assemble (.clr d.val) = some j ∧
    WordCommand i 0x23#8 d (fun s => val s a) ∧ WordCommand j 0x10#8 d (fun _ => 0)

/-- R152 and R153 with R126: ROLI and RORI by `IMM mod w`. -/
def Obligations.RotatesByAConstantAmount : Prop :=
  (∀ d a imm, WordCommand (.roli d a imm) 0x26#8 d fun s => rotl s.w (val s a) imm.toNat) ∧
  (∀ d a imm, WordCommand (.rori d a imm) 0x27#8 d fun s => rotr s.w (val s a) imm.toNat)

/-- R154 with R133: LOW32 keeps the low 32 bits. -/
def Obligations.Low32KeepsTheLowBits : Prop :=
  ∀ d a, WordCommand (.low32 d a) 0x28#8 d fun s => val s a % 2 ^ 32

/-- R150 with R129 and R130: WLD loads the `u` bytes of the slot IMM[0] in the byte order of IMM[1]. DLEN is not
checked. IMM[15:2] not 0 is ILLEGAL, and a byte of the slot that nothing has written is a fault. -/
def Obligations.WldLoadsASlot : Prop :=
  ∀ (d : Reg) (imm : BitVec 16) (s : State),
    (4 ≤ imm.toNat → exec (.wld d imm) s = .next (failed s .illegal 0x30#8)) ∧
    (imm.toNat < 4 → s.phase = .uncfg → exec (.wld d imm) s = .next (failed s .notConfigured 0x30#8)) ∧
    (imm.toNat < 4 → s.phase ≠ .uncfg →
      (∃ k, k < s.u ∧ s.mem.read (dinBase + imm.toNat % 2 * s.u + k) = none) →
      exec (.wld d imm) s = .fault .unwrittenInputByte) ∧
    (∀ din : Nat → Byte, imm.toNat < 4 → s.phase ≠ .uncfg →
      (∀ k, k < s.u → s.mem.read (dinBase + imm.toNat % 2 * s.u + k) = some (din k)) →
      exec (.wld d imm) s =
        .next (wrote s 0x30#8 d (if imm.toNat / 2 = 0 then leNumber s.u din else beNumber s.u din)))

/-- R151 with R131 and R132: WST stores the `u` bytes of a register to the slot IMM[0] of DOUT in the byte order of
IMM[1]; every other byte and every register keeps its value. -/
def Obligations.WstStoresASlot : Prop :=
  ∀ (a : Reg) (imm : BitVec 16) (s : State),
    (4 ≤ imm.toNat → exec (.wst a imm) s = .next (failed s .illegal 0x31#8)) ∧
    (imm.toNat < 4 → s.phase = .uncfg → exec (.wst a imm) s = .next (failed s .notConfigured 0x31#8)) ∧
    (imm.toNat < 4 → s.phase ≠ .uncfg → RegistersHoldWords s →
      ∃ mem : Memory, exec (.wst a imm) s = .next (stored s 0x31#8 mem) ∧
        s.slotBase imm = imm.toNat % 2 * s.u ∧
        (∀ k, k < s.u → mem.read (doutBase + s.slotBase imm + k) =
          some (digit (val s a) (if imm.toNat / 2 = 0 then k else s.u - 1 - k))) ∧
        (∀ n, (n < doutBase + s.slotBase imm ∨ doutBase + s.slotBase imm + s.u ≤ n) →
          mem.read n = s.mem.read n))

/-! ### The block processor -/

/-- R250: ENCODE, with its checks in order and its effect as the pseudocode computes it. (That DOUT[2u..31] keep their values,
against U4, is log entry 16.) -/
def Obligations.EncodeComputesTheRounds : Prop :=
  BlockChecks .encode 0x03#8 ∧ BlockResult .encode 0x03#8 Reference.encodeWords

/-- R251: DECODE, with its checks in order and its effect as the pseudocode computes it. (That DOUT[2u..31] keep their values,
against U4, is log entry 16.) -/
def Obligations.DecodeComputesTheRounds : Prop :=
  BlockChecks .decode 0x04#8 ∧ BlockResult .decode 0x04#8 Reference.decodeWords

/-- R252 on the two words: for every width, round count and round keys, decoding undoes encoding and encoding undoes
decoding. -/
def Obligations.BlockTransformsAreInverse : Prop :=
  ∀ (w r : Nat) (key : Nat → Word w) (p : Block w),
    decodeBlock key r (encodeBlock key r p) = p ∧ encodeBlock key r (decodeBlock key r p) = p

/-- R252 on the machine: a DECODE whose DIN holds the DOUT bytes that an ENCODE left, under the same instance, gives back
the ENCODE's DIN bytes; and ENCODE after DECODE likewise. -/
def Obligations.DecodeCommandUndoesEncodeCommand : Prop :=
  ∀ (i j : Instr) (s s1 s2 : State), (i = .encode ∧ j = .decode) ∨ (i = .decode ∧ j = .encode) →
    exec i s = .next s1 → s1.ecode = .ok →
    s2.cfgWsel = s1.cfgWsel → s2.cfgR = s1.cfgR → s2.sTable = s1.sTable → s2.phase = s1.phase →
    s2.dlen = s1.dlen →
    (∀ k, k < 2 * s.u → s2.mem.read (dinBase + k) = s1.mem.read (doutBase + k)) →
    ∃ s3 : State, exec j s2 = .next s3 ∧ s3.ecode = .ok ∧
      ∀ k, k < 2 * s.u → s3.mem.read (doutBase + k) = s.mem.read (dinBase + k)

/-- R253: the result of a block command depends on the instance, DLEN and DIN[0..2u-1] alone: no earlier block, register,
key buffer or old output byte changes it. -/
def Obligations.BlocksAreIndependent : Prop :=
  ∀ (i : Instr) (s1 s2 s1' : State), i = .encode ∨ i = .decode →
    s1.cfgWsel = s2.cfgWsel → s1.cfgR = s2.cfgR → s1.sTable = s2.sTable → s1.phase = s2.phase →
    s1.dlen = s2.dlen → (∀ k, k < 2 * s1.u → s1.mem.read (dinBase + k) = s2.mem.read (dinBase + k)) →
    exec i s1 = .next s1' →
    ∃ s2' : State, exec i s2 = .next s2' ∧ s2'.ecode = s1'.ecode ∧
      (s1'.ecode = .ok → ∀ k, k < 2 * s1.u → s2'.mem.read (doutBase + k) = s1'.mem.read (doutBase + k))

/-! ### The register window -/

/-- R24 to R30, R33, R62 (1), (2), (7), R23: what a read of each register that is not a buffer returns; no read changes
the engine. -/
def Obligations.RegisterReadsGiveTheirFields : Prop :=
  ∀ s : State,
    ReadsAs s 0x000#12 0x52433501 ∧
    ReadsAs s 0x004#12
      (s.params.rmax.toNat + 2 ^ 8 * s.params.keyBound.toNat + 2 ^ 16 * 8 + 2 ^ 24 * 0x7F) ∧
    ReadsAs s 0x008#12 0 ∧
    ReadsAs s 0x00C#12
      (s.busy.toNat + 2 * phaseNumber s.phase + 2 ^ 3 * s.err.toNat + 2 ^ 4 * s.ovr.toNat +
        2 ^ 8 * errNumber s.ecode + 2 ^ 16 * s.lastop.toNat) ∧
    ReadsAs s 0x010#12 (widthNumber s.cfgWsel + 2 ^ 8 * s.cfgR.toNat + 2 ^ 16 * s.cfgB.toNat) ∧
    ReadsAs s 0x014#12 s.dlen.toNat ∧ ReadsAs s 0x018#12 s.klen.toNat ∧
    ∀ a : BitVec 12, reservedOffset (4 * (a.toNat / 4)) → ReadsAs s a 0

/-- R62 (3), (4), (5), R64, R40: a read of DINm, KEYm, or DOUTm with BUSY = 0 returns, lane by lane, byte `4m+k` in bits
[8k+7:8k] where it has been written, and the free byte set aside for that lane where it has not. (The draws and the replies
are the model's own, log entries 4 and 5.) -/
def Obligations.BufferReadsReturnTheirBytes : Prop :=
  ∀ (s : State) (m : Nat) (b : Nat → Byte),
    (m < 8 → Lanes s (0x020 + 4 * m) b → ReadsAs s (BitVec.ofNat 12 (0x020 + 4 * m)) (wordOfBytes b)) ∧
    (m < 64 → Lanes s (0x100 + 4 * m) b → ReadsAs s (BitVec.ofNat 12 (0x100 + 4 * m)) (wordOfBytes b)) ∧
    (m < 8 → s.busy = false → Lanes s (0x040 + 4 * m) b →
      ReadsAs s (BitVec.ofNat 12 (0x040 + 4 * m)) (wordOfBytes b))

/-- R40, R67: a DOUT read while BUSY = 1, and a read of a buffer register none of whose bytes has been written, return the
free bytes set aside for that read, whatever they are. (The draws are the model's own, log entry 5.) -/
def Obligations.UnspecifiedReadsAreFree : Prop :=
  ∀ (s : State) (m : Nat),
    (m < 8 → (s.busy = true ∨ ∀ k, k < 4 → s.mem.read (0x040 + 4 * m + k) = none) →
      ReadsAs s (BitVec.ofNat 12 (0x040 + 4 * m)) (wordOfBytes fun k => Config.freeByte (s.draws + k))) ∧
    (m < 8 → (∀ k, k < 4 → s.mem.read (0x020 + 4 * m + k) = none) →
      ReadsAs s (BitVec.ofNat 12 (0x020 + 4 * m)) (wordOfBytes fun k => Config.freeByte (s.draws + k))) ∧
    (m < 64 → (∀ k, k < 4 → s.mem.read (0x100 + 4 * m + k) = none) →
      ReadsAs s (BitVec.ofNat 12 (0x100 + 4 * m)) (wordOfBytes fun k => Config.freeByte (s.draws + k)))

/-- R60, R68: address bits [1:0] are ignored: an access at `a` is the access at `a AND 0xFFC`. -/
def Obligations.LowAddressBitsAreIgnored : Prop :=
  ∀ (s : State) (a : BitVec 12) (v : BitVec 32) (rest : List Event),
    step { s with events := .read a :: rest } = step { s with events := .read (a &&& 0xFFC#12) :: rest } ∧
    step { s with events := .write a v :: rest } = step { s with events := .write (a &&& 0xFFC#12) v :: rest }

/-- R66: while BUSY = 1 every write, to any offset, is dropped and sets OVR; nothing else changes. -/
def Obligations.WritesWhileBusyAreDropped : Prop :=
  ∀ (s : State) (a : BitVec 12) (v : BitVec 32), s.busy = true → WriteGives s a v { s with ovr := true }

/-- R63 (1) to (4), (7), R26, R28: with BUSY = 0, a write to CMD issues its value, to STATUS clears ERR and OVR by bits 3
and 4, to DLEN and KLEN stores the low bits, and to ID, PARAM, CFGR, DOUTm or a reserved offset does nothing. -/
def Obligations.RegisterWritesWhenIdle : Prop :=
  ∀ (s : State) (v : BitVec 32), s.busy = false →
    WriteGives s 0x008#12 v { s with pend := some v } ∧
    WriteGives s 0x00C#12 v
      { s with
        err := s.err && (v.toNat / 2 ^ 3 % 2 == 0), ovr := s.ovr && (v.toNat / 2 ^ 4 % 2 == 0) } ∧
    WriteGives s 0x014#12 v { s with dlen := BitVec.ofNat 6 v.toNat } ∧
    WriteGives s 0x018#12 v { s with klen := BitVec.ofNat 9 v.toNat } ∧
    ∀ a : BitVec 12, 4 * (a.toNat / 4) = 0x000 ∨ 4 * (a.toNat / 4) = 0x004 ∨ 4 * (a.toNat / 4) = 0x010 ∨
        (0x040 ≤ 4 * (a.toNat / 4) ∧ 4 * (a.toNat / 4) ≤ 0x05C) ∨ reservedOffset (4 * (a.toNat / 4)) →
      WriteGives s a v s

/-- R63 (5), (6), R64: with BUSY = 0, a write to DINm or KEYm stores the four bytes, byte `4m+k` from bits [8k+7:8k], and
every other byte of the buffers keeps its value. -/
def Obligations.BufferWritesStoreTheirBytes : Prop :=
  ∀ (s : State) (m base : Nat) (v : BitVec 32), s.busy = false →
    (base = 0x020 ∧ m < 8) ∨ (base = 0x100 ∧ m < 64) →
    ∃ mem : Memory, WriteGives s (BitVec.ofNat 12 (base + 4 * m)) v { s with mem := mem } ∧
      (∀ k, k < 4 → mem.read (base + 4 * m + k) = some (BitVec.ofNat 8 (v.toNat / 2 ^ (8 * k)))) ∧
      (∀ a, (a < base + 4 * m ∨ base + 4 * m + 4 ≤ a) → mem.read a = s.mem.read a)

/-- R33, R34, R30, R64: where the next two events are a write and a read of one offset and BUSY = 0, DINm and KEYm read
back the value written, and DLEN and KLEN its low 6 and 9 bits. (The two events are fixed, log entry 2; the value read is
the last of the replies, log entry 4.) -/
def Obligations.WrittenRegistersReadBack : Prop :=
  ∀ (s : State) (a : BitVec 12) (v : BitVec 32) (rest : List Event), s.busy = false →
    s.events = .write a v :: .read a :: rest →
    ∃ s1 s2 : State, step s = .next s1 ∧ step s1 = .next s2 ∧
      ((0x020 ≤ a.toNat ∧ a.toNat < 0x040) ∨ (0x100 ≤ a.toNat ∧ a.toNat < 0x200) →
        s2.replies = s.replies ++ [v]) ∧
      (a = 0x014#12 → s2.replies = s.replies ++ [BitVec.ofNat 32 (v.toNat % 2 ^ 6)]) ∧
      (a = 0x018#12 → s2.replies = s.replies ++ [BitVec.ofNat 32 (v.toNat % 2 ^ 9)])

/-! ### Reset and the invariant -/

/-- R40, R25: the state right after reset, of every build: every piece with a stated value has it, no byte of KEYBUF, DIN or
DOUT and no entry of S or L has a value, and STATUS, CFGR and PARAM read as the rules say. State.reset is the one of the
default build, RMAX = 255 and KEY_BOUND = 255 (log entry 3). (That a table without defined values is `[]` is log
entry 7.) -/
def Obligations.ResetValues : Prop :=
  (∀ p : Params,
    (State.resetFor p).phase = .uncfg ∧ (State.resetFor p).pend = none ∧ (State.resetFor p).err = false ∧
    (State.resetFor p).ovr = false ∧ (State.resetFor p).ecode = .ok ∧ (State.resetFor p).lastop = 0#8 ∧
    (State.resetFor p).cfgWsel = .w8 ∧ (State.resetFor p).cfgR = 0#8 ∧ (State.resetFor p).cfgB = 0#12 ∧
    (State.resetFor p).dlen = 0#6 ∧ (State.resetFor p).klen = 0#9 ∧
    (∀ r : Reg, (State.resetFor p).x.get r = 0#128) ∧ (State.resetFor p).sTable = [] ∧
    (State.resetFor p).lTable = [] ∧ (∀ a, (State.resetFor p).mem.read a = none) ∧
    (State.resetFor p).statusWord = 0#32 ∧ (State.resetFor p).cfgrWord = 0#32 ∧
    (State.resetFor p).paramWord.toNat =
      p.rmax.toNat + 2 ^ 8 * p.keyBound.toNat + 2 ^ 16 * 8 + 2 ^ 24 * 0x7F) ∧
  State.reset = State.resetFor { rmax := 255#8, keyBound := 255#8 } ∧ State.reset.paramWord = 0x7F08FFFF#32 ∧
  Config.identification = 0x52433501#32

/-- R310, R311: the reset input, at any time, gives every piece of the engine's state its reset value and abandons a
pending command. (That the build and the host's side stay, and that memory then lists no byte, is the model's own, log
entry 13; the events are log entry 2, the build log entry 3.) -/
def Obligations.ResetInputRestoresTheResetState : Prop :=
  ∀ (s : State) (rest : List Event), s.events = .reset :: rest →
    ∃ s' : State, step s = .next s' ∧ s' = { State.resetFor s.params with
      events := rest, replies := s.replies, draws := s.draws } ∧
      s'.busy = false ∧ s'.phase = .uncfg ∧ ∀ a, s'.mem.read a = none

/-- The invariant of R8, R21, R29, R31, R32 and of the canonical memory holds right after reset, for every legal build
(`RMAX` at least 1, R8), State.reset (the default build, log entry 3) among them. -/
def Obligations.ResetMeetsTheInvariant : Prop :=
  (∀ p : Params, 1 ≤ p.rmax.toNat → (State.resetFor p).Inv) ∧ State.reset.Inv

/-- Every step keeps the invariant: registers and round keys stay words of the current width, a configured instance stays
in range, `|S| = t` in READY, and the memory stays canonical and within the buffers. -/
def Obligations.EveryStepKeepsTheInvariant : Prop :=
  ∀ s s' : State, s.Inv → step s = .next s' → s'.Inv

/-! ### The end of a run -/

/-- R323: a run can end where no bus access is to come and BUSY = 0, and only there: a completion or a reset to come is no
access. The outcome observed there is STATUS, CFGR, DLEN, KLEN and the bytes of DIN, DOUT and KEYBUF that have been
written; elsewhere there is none. (The accesses to come are in the list of events, log entry 2; an unwritten byte shows as
absent, log entry 15.) -/
def Obligations.RunOutcomeIsWhatTheHostCanRead : Prop :=
  ∀ s : State,
    (s.ended = true ↔ ((∀ a, Event.read a ∉ s.events) ∧ (∀ a v, Event.write a v ∉ s.events)) ∧ s.pend = none) ∧
    (s.ended = false → s.outcome = none) ∧
    (s.ended = true → ∃ o, s.outcome = some o ∧
      ReadsAs s 0x00C#12 o.status.toNat ∧ ReadsAs s 0x010#12 o.cfgr.toNat ∧ ReadsAs s 0x014#12 o.dlen.toNat ∧
      ReadsAs s 0x018#12 o.klen.toNat ∧
      o.din.length = 32 ∧ o.dout.length = 32 ∧ o.keybuf.length = 256 ∧
      (∀ k, k < 32 → o.din[k]? = some (s.mem.read (0x020 + k)) ∧ o.dout[k]? = some (s.mem.read (0x040 + k))) ∧
      (∀ k, k < 256 → o.keybuf[k]? = some (s.mem.read (0x100 + k))))

/-- R323, R298: after its end, and with no reset to come, a run stays at its end with the outcome it had. -/
def Obligations.EndedRunKeepsItsOutcome : Prop :=
  ∀ s : State, s.ended = true → Event.reset ∉ s.events →
    ∀ n, ∃ s' : State, Sys2Proof.core.run n s = Host.Outcome.next s' ∧ s'.ended = true ∧ s'.outcome = s.outcome
end

