-- ==== Sys2Proof/Laws/State.lean ====
section
/-! SUPPORT. One lemma per field of `State` per update of it, each true by `rfl`, so that no proof unfolds a record
update; then the derived parameters `w`, `u`, `r`, `b`, `t`, `c` under each update. -/

namespace Sys2Proof.Machine

/-! `finish` (R284) -/

@[simp] theorem State.finish_params (s : State) (op : BitVec 8) : (s.finish op).params = s.params := rfl
@[simp] theorem State.finish_cfgWsel (s : State) (op : BitVec 8) : (s.finish op).cfgWsel = s.cfgWsel := rfl
@[simp] theorem State.finish_cfgR (s : State) (op : BitVec 8) : (s.finish op).cfgR = s.cfgR := rfl
@[simp] theorem State.finish_cfgB (s : State) (op : BitVec 8) : (s.finish op).cfgB = s.cfgB := rfl
@[simp] theorem State.finish_phase (s : State) (op : BitVec 8) : (s.finish op).phase = s.phase := rfl
@[simp] theorem State.finish_x (s : State) (op : BitVec 8) : (s.finish op).x = s.x := rfl
@[simp] theorem State.finish_sTable (s : State) (op : BitVec 8) : (s.finish op).sTable = s.sTable := rfl
@[simp] theorem State.finish_lTable (s : State) (op : BitVec 8) : (s.finish op).lTable = s.lTable := rfl
@[simp] theorem State.finish_mem (s : State) (op : BitVec 8) : (s.finish op).mem = s.mem := rfl
@[simp] theorem State.finish_dlen (s : State) (op : BitVec 8) : (s.finish op).dlen = s.dlen := rfl
@[simp] theorem State.finish_klen (s : State) (op : BitVec 8) : (s.finish op).klen = s.klen := rfl
@[simp] theorem State.finish_err (s : State) (op : BitVec 8) : (s.finish op).err = s.err := rfl
@[simp] theorem State.finish_ovr (s : State) (op : BitVec 8) : (s.finish op).ovr = s.ovr := rfl
@[simp] theorem State.finish_ecode (s : State) (op : BitVec 8) : (s.finish op).ecode = .ok := rfl
@[simp] theorem State.finish_lastop (s : State) (op : BitVec 8) : (s.finish op).lastop = op := rfl
@[simp] theorem State.finish_pend (s : State) (op : BitVec 8) : (s.finish op).pend = none := rfl
@[simp] theorem State.finish_events (s : State) (op : BitVec 8) : (s.finish op).events = s.events := rfl
@[simp] theorem State.finish_replies (s : State) (op : BitVec 8) : (s.finish op).replies = s.replies := rfl
@[simp] theorem State.finish_draws (s : State) (op : BitVec 8) : (s.finish op).draws = s.draws := rfl
@[simp] theorem State.finish_w (s : State) (op : BitVec 8) : (s.finish op).w = s.w := rfl
@[simp] theorem State.finish_u (s : State) (op : BitVec 8) : (s.finish op).u = s.u := rfl
@[simp] theorem State.finish_r (s : State) (op : BitVec 8) : (s.finish op).r = s.r := rfl
@[simp] theorem State.finish_b (s : State) (op : BitVec 8) : (s.finish op).b = s.b := rfl
@[simp] theorem State.finish_t (s : State) (op : BitVec 8) : (s.finish op).t = s.t := rfl
@[simp] theorem State.finish_c (s : State) (op : BitVec 8) : (s.finish op).c = s.c := rfl
@[simp] theorem State.finish_roundKey (s : State) (op : BitVec 8) (i : Nat) : (s.finish op).roundKey i = s.roundKey i := rfl

/-! `raise CmdError` (R283) -/

@[simp] theorem State.raise_params (s : State) (code : ErrCode) (op : BitVec 8) : (s.raise code op).params = s.params := rfl
@[simp] theorem State.raise_cfgWsel (s : State) (code : ErrCode) (op : BitVec 8) : (s.raise code op).cfgWsel = s.cfgWsel := rfl
@[simp] theorem State.raise_cfgR (s : State) (code : ErrCode) (op : BitVec 8) : (s.raise code op).cfgR = s.cfgR := rfl
@[simp] theorem State.raise_cfgB (s : State) (code : ErrCode) (op : BitVec 8) : (s.raise code op).cfgB = s.cfgB := rfl
@[simp] theorem State.raise_phase (s : State) (code : ErrCode) (op : BitVec 8) : (s.raise code op).phase = s.phase := rfl
@[simp] theorem State.raise_x (s : State) (code : ErrCode) (op : BitVec 8) : (s.raise code op).x = s.x := rfl
@[simp] theorem State.raise_sTable (s : State) (code : ErrCode) (op : BitVec 8) : (s.raise code op).sTable = s.sTable := rfl
@[simp] theorem State.raise_lTable (s : State) (code : ErrCode) (op : BitVec 8) : (s.raise code op).lTable = s.lTable := rfl
@[simp] theorem State.raise_mem (s : State) (code : ErrCode) (op : BitVec 8) : (s.raise code op).mem = s.mem := rfl
@[simp] theorem State.raise_dlen (s : State) (code : ErrCode) (op : BitVec 8) : (s.raise code op).dlen = s.dlen := rfl
@[simp] theorem State.raise_klen (s : State) (code : ErrCode) (op : BitVec 8) : (s.raise code op).klen = s.klen := rfl
@[simp] theorem State.raise_err (s : State) (code : ErrCode) (op : BitVec 8) : (s.raise code op).err = true := rfl
@[simp] theorem State.raise_ovr (s : State) (code : ErrCode) (op : BitVec 8) : (s.raise code op).ovr = s.ovr := rfl
@[simp] theorem State.raise_ecode (s : State) (code : ErrCode) (op : BitVec 8) : (s.raise code op).ecode = code := rfl
@[simp] theorem State.raise_lastop (s : State) (code : ErrCode) (op : BitVec 8) : (s.raise code op).lastop = op := rfl
@[simp] theorem State.raise_pend (s : State) (code : ErrCode) (op : BitVec 8) : (s.raise code op).pend = none := rfl
@[simp] theorem State.raise_events (s : State) (code : ErrCode) (op : BitVec 8) : (s.raise code op).events = s.events := rfl
@[simp] theorem State.raise_replies (s : State) (code : ErrCode) (op : BitVec 8) : (s.raise code op).replies = s.replies := rfl
@[simp] theorem State.raise_draws (s : State) (code : ErrCode) (op : BitVec 8) : (s.raise code op).draws = s.draws := rfl
@[simp] theorem State.raise_w (s : State) (code : ErrCode) (op : BitVec 8) : (s.raise code op).w = s.w := rfl
@[simp] theorem State.raise_u (s : State) (code : ErrCode) (op : BitVec 8) : (s.raise code op).u = s.u := rfl
@[simp] theorem State.raise_r (s : State) (code : ErrCode) (op : BitVec 8) : (s.raise code op).r = s.r := rfl
@[simp] theorem State.raise_b (s : State) (code : ErrCode) (op : BitVec 8) : (s.raise code op).b = s.b := rfl
@[simp] theorem State.raise_t (s : State) (code : ErrCode) (op : BitVec 8) : (s.raise code op).t = s.t := rfl
@[simp] theorem State.raise_c (s : State) (code : ErrCode) (op : BitVec 8) : (s.raise code op).c = s.c := rfl
@[simp] theorem State.raise_roundKey (s : State) (code : ErrCode) (op : BitVec 8) (i : Nat) : (s.raise code op).roundKey i = s.roundKey i := rfl

/-! a word register written (R21) -/

@[simp] theorem State.setWord_params (s : State) {w : Nat} (r : Reg) (v : Word w) : (s.setWord r v).params = s.params := rfl
@[simp] theorem State.setWord_cfgWsel (s : State) {w : Nat} (r : Reg) (v : Word w) : (s.setWord r v).cfgWsel = s.cfgWsel := rfl
@[simp] theorem State.setWord_cfgR (s : State) {w : Nat} (r : Reg) (v : Word w) : (s.setWord r v).cfgR = s.cfgR := rfl
@[simp] theorem State.setWord_cfgB (s : State) {w : Nat} (r : Reg) (v : Word w) : (s.setWord r v).cfgB = s.cfgB := rfl
@[simp] theorem State.setWord_phase (s : State) {w : Nat} (r : Reg) (v : Word w) : (s.setWord r v).phase = s.phase := rfl
@[simp] theorem State.setWord_x (s : State) {w : Nat} (r : Reg) (v : Word w) : (s.setWord r v).x = s.x.set r.val v.toCell r.isLt := rfl
@[simp] theorem State.setWord_sTable (s : State) {w : Nat} (r : Reg) (v : Word w) : (s.setWord r v).sTable = s.sTable := rfl
@[simp] theorem State.setWord_lTable (s : State) {w : Nat} (r : Reg) (v : Word w) : (s.setWord r v).lTable = s.lTable := rfl
@[simp] theorem State.setWord_mem (s : State) {w : Nat} (r : Reg) (v : Word w) : (s.setWord r v).mem = s.mem := rfl
@[simp] theorem State.setWord_dlen (s : State) {w : Nat} (r : Reg) (v : Word w) : (s.setWord r v).dlen = s.dlen := rfl
@[simp] theorem State.setWord_klen (s : State) {w : Nat} (r : Reg) (v : Word w) : (s.setWord r v).klen = s.klen := rfl
@[simp] theorem State.setWord_err (s : State) {w : Nat} (r : Reg) (v : Word w) : (s.setWord r v).err = s.err := rfl
@[simp] theorem State.setWord_ovr (s : State) {w : Nat} (r : Reg) (v : Word w) : (s.setWord r v).ovr = s.ovr := rfl
@[simp] theorem State.setWord_ecode (s : State) {w : Nat} (r : Reg) (v : Word w) : (s.setWord r v).ecode = s.ecode := rfl
@[simp] theorem State.setWord_lastop (s : State) {w : Nat} (r : Reg) (v : Word w) : (s.setWord r v).lastop = s.lastop := rfl
@[simp] theorem State.setWord_pend (s : State) {w : Nat} (r : Reg) (v : Word w) : (s.setWord r v).pend = s.pend := rfl
@[simp] theorem State.setWord_events (s : State) {w : Nat} (r : Reg) (v : Word w) : (s.setWord r v).events = s.events := rfl
@[simp] theorem State.setWord_replies (s : State) {w : Nat} (r : Reg) (v : Word w) : (s.setWord r v).replies = s.replies := rfl
@[simp] theorem State.setWord_draws (s : State) {w : Nat} (r : Reg) (v : Word w) : (s.setWord r v).draws = s.draws := rfl
@[simp] theorem State.setWord_w (s : State) {w : Nat} (r : Reg) (v : Word w) : (s.setWord r v).w = s.w := rfl
@[simp] theorem State.setWord_u (s : State) {w : Nat} (r : Reg) (v : Word w) : (s.setWord r v).u = s.u := rfl
@[simp] theorem State.setWord_r (s : State) {w : Nat} (r : Reg) (v : Word w) : (s.setWord r v).r = s.r := rfl
@[simp] theorem State.setWord_b (s : State) {w : Nat} (r : Reg) (v : Word w) : (s.setWord r v).b = s.b := rfl
@[simp] theorem State.setWord_t (s : State) {w : Nat} (r : Reg) (v : Word w) : (s.setWord r v).t = s.t := rfl
@[simp] theorem State.setWord_c (s : State) {w : Nat} (r : Reg) (v : Word w) : (s.setWord r v).c = s.c := rfl
@[simp] theorem State.setWord_roundKey (s : State) {w : Nat} (r : Reg) (v : Word w) (i : Nat) : (s.setWord r v).roundKey i = s.roundKey i := rfl

/-! bytes of DOUT written (R34) -/

@[simp] theorem State.setDout_params (s : State) (n : Nat) (bytes : List Byte) : (s.setDout n bytes).params = s.params := rfl
@[simp] theorem State.setDout_cfgWsel (s : State) (n : Nat) (bytes : List Byte) : (s.setDout n bytes).cfgWsel = s.cfgWsel := rfl
@[simp] theorem State.setDout_cfgR (s : State) (n : Nat) (bytes : List Byte) : (s.setDout n bytes).cfgR = s.cfgR := rfl
@[simp] theorem State.setDout_cfgB (s : State) (n : Nat) (bytes : List Byte) : (s.setDout n bytes).cfgB = s.cfgB := rfl
@[simp] theorem State.setDout_phase (s : State) (n : Nat) (bytes : List Byte) : (s.setDout n bytes).phase = s.phase := rfl
@[simp] theorem State.setDout_x (s : State) (n : Nat) (bytes : List Byte) : (s.setDout n bytes).x = s.x := rfl
@[simp] theorem State.setDout_sTable (s : State) (n : Nat) (bytes : List Byte) : (s.setDout n bytes).sTable = s.sTable := rfl
@[simp] theorem State.setDout_lTable (s : State) (n : Nat) (bytes : List Byte) : (s.setDout n bytes).lTable = s.lTable := rfl
@[simp] theorem State.setDout_mem (s : State) (n : Nat) (bytes : List Byte) : (s.setDout n bytes).mem = s.mem.writeBytes (doutBase + n) bytes := rfl
@[simp] theorem State.setDout_dlen (s : State) (n : Nat) (bytes : List Byte) : (s.setDout n bytes).dlen = s.dlen := rfl
@[simp] theorem State.setDout_klen (s : State) (n : Nat) (bytes : List Byte) : (s.setDout n bytes).klen = s.klen := rfl
@[simp] theorem State.setDout_err (s : State) (n : Nat) (bytes : List Byte) : (s.setDout n bytes).err = s.err := rfl
@[simp] theorem State.setDout_ovr (s : State) (n : Nat) (bytes : List Byte) : (s.setDout n bytes).ovr = s.ovr := rfl
@[simp] theorem State.setDout_ecode (s : State) (n : Nat) (bytes : List Byte) : (s.setDout n bytes).ecode = s.ecode := rfl
@[simp] theorem State.setDout_lastop (s : State) (n : Nat) (bytes : List Byte) : (s.setDout n bytes).lastop = s.lastop := rfl
@[simp] theorem State.setDout_pend (s : State) (n : Nat) (bytes : List Byte) : (s.setDout n bytes).pend = s.pend := rfl
@[simp] theorem State.setDout_events (s : State) (n : Nat) (bytes : List Byte) : (s.setDout n bytes).events = s.events := rfl
@[simp] theorem State.setDout_replies (s : State) (n : Nat) (bytes : List Byte) : (s.setDout n bytes).replies = s.replies := rfl
@[simp] theorem State.setDout_draws (s : State) (n : Nat) (bytes : List Byte) : (s.setDout n bytes).draws = s.draws := rfl
@[simp] theorem State.setDout_w (s : State) (n : Nat) (bytes : List Byte) : (s.setDout n bytes).w = s.w := rfl
@[simp] theorem State.setDout_u (s : State) (n : Nat) (bytes : List Byte) : (s.setDout n bytes).u = s.u := rfl
@[simp] theorem State.setDout_r (s : State) (n : Nat) (bytes : List Byte) : (s.setDout n bytes).r = s.r := rfl
@[simp] theorem State.setDout_b (s : State) (n : Nat) (bytes : List Byte) : (s.setDout n bytes).b = s.b := rfl
@[simp] theorem State.setDout_t (s : State) (n : Nat) (bytes : List Byte) : (s.setDout n bytes).t = s.t := rfl
@[simp] theorem State.setDout_c (s : State) (n : Nat) (bytes : List Byte) : (s.setDout n bytes).c = s.c := rfl
@[simp] theorem State.setDout_roundKey (s : State) (n : Nat) (bytes : List Byte) (i : Nat) : (s.setDout n bytes).roundKey i = s.roundKey i := rfl

/-! the effects of CONFIG (R202) -/

@[simp] theorem State.configure_params (s : State) (wd : Width) (r : BitVec 8) (b : BitVec 12) : (s.configure wd r b).params = s.params := rfl
@[simp] theorem State.configure_cfgWsel (s : State) (wd : Width) (r : BitVec 8) (b : BitVec 12) : (s.configure wd r b).cfgWsel = wd := rfl
@[simp] theorem State.configure_cfgR (s : State) (wd : Width) (r : BitVec 8) (b : BitVec 12) : (s.configure wd r b).cfgR = r := rfl
@[simp] theorem State.configure_cfgB (s : State) (wd : Width) (r : BitVec 8) (b : BitVec 12) : (s.configure wd r b).cfgB = b := rfl
@[simp] theorem State.configure_phase (s : State) (wd : Width) (r : BitVec 8) (b : BitVec 12) : (s.configure wd r b).phase = .cfgd := rfl
@[simp] theorem State.configure_x (s : State) (wd : Width) (r : BitVec 8) (b : BitVec 12) : (s.configure wd r b).x = Vector.replicate 8 0#128 := rfl
@[simp] theorem State.configure_sTable (s : State) (wd : Width) (r : BitVec 8) (b : BitVec 12) : (s.configure wd r b).sTable = [] := rfl
@[simp] theorem State.configure_lTable (s : State) (wd : Width) (r : BitVec 8) (b : BitVec 12) : (s.configure wd r b).lTable = s.lTable := rfl
@[simp] theorem State.configure_mem (s : State) (wd : Width) (r : BitVec 8) (b : BitVec 12) : (s.configure wd r b).mem = s.mem := rfl
@[simp] theorem State.configure_dlen (s : State) (wd : Width) (r : BitVec 8) (b : BitVec 12) : (s.configure wd r b).dlen = s.dlen := rfl
@[simp] theorem State.configure_klen (s : State) (wd : Width) (r : BitVec 8) (b : BitVec 12) : (s.configure wd r b).klen = s.klen := rfl
@[simp] theorem State.configure_err (s : State) (wd : Width) (r : BitVec 8) (b : BitVec 12) : (s.configure wd r b).err = s.err := rfl
@[simp] theorem State.configure_ovr (s : State) (wd : Width) (r : BitVec 8) (b : BitVec 12) : (s.configure wd r b).ovr = s.ovr := rfl
@[simp] theorem State.configure_ecode (s : State) (wd : Width) (r : BitVec 8) (b : BitVec 12) : (s.configure wd r b).ecode = s.ecode := rfl
@[simp] theorem State.configure_lastop (s : State) (wd : Width) (r : BitVec 8) (b : BitVec 12) : (s.configure wd r b).lastop = s.lastop := rfl
@[simp] theorem State.configure_pend (s : State) (wd : Width) (r : BitVec 8) (b : BitVec 12) : (s.configure wd r b).pend = s.pend := rfl
@[simp] theorem State.configure_events (s : State) (wd : Width) (r : BitVec 8) (b : BitVec 12) : (s.configure wd r b).events = s.events := rfl
@[simp] theorem State.configure_replies (s : State) (wd : Width) (r : BitVec 8) (b : BitVec 12) : (s.configure wd r b).replies = s.replies := rfl
@[simp] theorem State.configure_draws (s : State) (wd : Width) (r : BitVec 8) (b : BitVec 12) : (s.configure wd r b).draws = s.draws := rfl

/-! the effects of SETUP (R207) -/

@[simp] theorem State.install_params (s : State) {w : Nat} (table : List (Word w)) : (s.install table).params = s.params := rfl
@[simp] theorem State.install_cfgWsel (s : State) {w : Nat} (table : List (Word w)) : (s.install table).cfgWsel = s.cfgWsel := rfl
@[simp] theorem State.install_cfgR (s : State) {w : Nat} (table : List (Word w)) : (s.install table).cfgR = s.cfgR := rfl
@[simp] theorem State.install_cfgB (s : State) {w : Nat} (table : List (Word w)) : (s.install table).cfgB = s.cfgB := rfl
@[simp] theorem State.install_phase (s : State) {w : Nat} (table : List (Word w)) : (s.install table).phase = .ready := rfl
@[simp] theorem State.install_x (s : State) {w : Nat} (table : List (Word w)) : (s.install table).x = s.x := rfl
@[simp] theorem State.install_sTable (s : State) {w : Nat} (table : List (Word w)) : (s.install table).sTable = table.map Word.toCell := rfl
@[simp] theorem State.install_lTable (s : State) {w : Nat} (table : List (Word w)) : (s.install table).lTable = [] := rfl
@[simp] theorem State.install_mem (s : State) {w : Nat} (table : List (Word w)) : (s.install table).mem = s.mem := rfl
@[simp] theorem State.install_dlen (s : State) {w : Nat} (table : List (Word w)) : (s.install table).dlen = s.dlen := rfl
@[simp] theorem State.install_klen (s : State) {w : Nat} (table : List (Word w)) : (s.install table).klen = s.klen := rfl
@[simp] theorem State.install_err (s : State) {w : Nat} (table : List (Word w)) : (s.install table).err = s.err := rfl
@[simp] theorem State.install_ovr (s : State) {w : Nat} (table : List (Word w)) : (s.install table).ovr = s.ovr := rfl
@[simp] theorem State.install_ecode (s : State) {w : Nat} (table : List (Word w)) : (s.install table).ecode = s.ecode := rfl
@[simp] theorem State.install_lastop (s : State) {w : Nat} (table : List (Word w)) : (s.install table).lastop = s.lastop := rfl
@[simp] theorem State.install_pend (s : State) {w : Nat} (table : List (Word w)) : (s.install table).pend = s.pend := rfl
@[simp] theorem State.install_events (s : State) {w : Nat} (table : List (Word w)) : (s.install table).events = s.events := rfl
@[simp] theorem State.install_replies (s : State) {w : Nat} (table : List (Word w)) : (s.install table).replies = s.replies := rfl
@[simp] theorem State.install_draws (s : State) {w : Nat} (table : List (Word w)) : (s.install table).draws = s.draws := rfl
@[simp] theorem State.install_w (s : State) {w : Nat} (table : List (Word w)) : (s.install table).w = s.w := rfl
@[simp] theorem State.install_u (s : State) {w : Nat} (table : List (Word w)) : (s.install table).u = s.u := rfl
@[simp] theorem State.install_r (s : State) {w : Nat} (table : List (Word w)) : (s.install table).r = s.r := rfl
@[simp] theorem State.install_b (s : State) {w : Nat} (table : List (Word w)) : (s.install table).b = s.b := rfl
@[simp] theorem State.install_t (s : State) {w : Nat} (table : List (Word w)) : (s.install table).t = s.t := rfl
@[simp] theorem State.install_c (s : State) {w : Nat} (table : List (Word w)) : (s.install table).c = s.c := rfl

/-! a STATUS write (R28) -/

@[simp] theorem State.clearSticky_params (s : State) (v : BitVec 32) : (s.clearSticky v).params = s.params := rfl
@[simp] theorem State.clearSticky_cfgWsel (s : State) (v : BitVec 32) : (s.clearSticky v).cfgWsel = s.cfgWsel := rfl
@[simp] theorem State.clearSticky_cfgR (s : State) (v : BitVec 32) : (s.clearSticky v).cfgR = s.cfgR := rfl
@[simp] theorem State.clearSticky_cfgB (s : State) (v : BitVec 32) : (s.clearSticky v).cfgB = s.cfgB := rfl
@[simp] theorem State.clearSticky_phase (s : State) (v : BitVec 32) : (s.clearSticky v).phase = s.phase := rfl
@[simp] theorem State.clearSticky_x (s : State) (v : BitVec 32) : (s.clearSticky v).x = s.x := rfl
@[simp] theorem State.clearSticky_sTable (s : State) (v : BitVec 32) : (s.clearSticky v).sTable = s.sTable := rfl
@[simp] theorem State.clearSticky_lTable (s : State) (v : BitVec 32) : (s.clearSticky v).lTable = s.lTable := rfl
@[simp] theorem State.clearSticky_mem (s : State) (v : BitVec 32) : (s.clearSticky v).mem = s.mem := rfl
@[simp] theorem State.clearSticky_dlen (s : State) (v : BitVec 32) : (s.clearSticky v).dlen = s.dlen := rfl
@[simp] theorem State.clearSticky_klen (s : State) (v : BitVec 32) : (s.clearSticky v).klen = s.klen := rfl
@[simp] theorem State.clearSticky_err (s : State) (v : BitVec 32) : (s.clearSticky v).err = (s.err && !v.getLsbD 3) := rfl
@[simp] theorem State.clearSticky_ovr (s : State) (v : BitVec 32) : (s.clearSticky v).ovr = (s.ovr && !v.getLsbD 4) := rfl
@[simp] theorem State.clearSticky_ecode (s : State) (v : BitVec 32) : (s.clearSticky v).ecode = s.ecode := rfl
@[simp] theorem State.clearSticky_lastop (s : State) (v : BitVec 32) : (s.clearSticky v).lastop = s.lastop := rfl
@[simp] theorem State.clearSticky_pend (s : State) (v : BitVec 32) : (s.clearSticky v).pend = s.pend := rfl
@[simp] theorem State.clearSticky_events (s : State) (v : BitVec 32) : (s.clearSticky v).events = s.events := rfl
@[simp] theorem State.clearSticky_replies (s : State) (v : BitVec 32) : (s.clearSticky v).replies = s.replies := rfl
@[simp] theorem State.clearSticky_draws (s : State) (v : BitVec 32) : (s.clearSticky v).draws = s.draws := rfl
@[simp] theorem State.clearSticky_w (s : State) (v : BitVec 32) : (s.clearSticky v).w = s.w := rfl
@[simp] theorem State.clearSticky_u (s : State) (v : BitVec 32) : (s.clearSticky v).u = s.u := rfl
@[simp] theorem State.clearSticky_r (s : State) (v : BitVec 32) : (s.clearSticky v).r = s.r := rfl
@[simp] theorem State.clearSticky_b (s : State) (v : BitVec 32) : (s.clearSticky v).b = s.b := rfl
@[simp] theorem State.clearSticky_t (s : State) (v : BitVec 32) : (s.clearSticky v).t = s.t := rfl
@[simp] theorem State.clearSticky_c (s : State) (v : BitVec 32) : (s.clearSticky v).c = s.c := rfl
@[simp] theorem State.clearSticky_roundKey (s : State) (v : BitVec 32) (i : Nat) : (s.clearSticky v).roundKey i = s.roundKey i := rfl

/-! a dropped write (R66) -/

@[simp] theorem State.markOverrun_params (s : State) : (s.markOverrun).params = s.params := rfl
@[simp] theorem State.markOverrun_cfgWsel (s : State) : (s.markOverrun).cfgWsel = s.cfgWsel := rfl
@[simp] theorem State.markOverrun_cfgR (s : State) : (s.markOverrun).cfgR = s.cfgR := rfl
@[simp] theorem State.markOverrun_cfgB (s : State) : (s.markOverrun).cfgB = s.cfgB := rfl
@[simp] theorem State.markOverrun_phase (s : State) : (s.markOverrun).phase = s.phase := rfl
@[simp] theorem State.markOverrun_x (s : State) : (s.markOverrun).x = s.x := rfl
@[simp] theorem State.markOverrun_sTable (s : State) : (s.markOverrun).sTable = s.sTable := rfl
@[simp] theorem State.markOverrun_lTable (s : State) : (s.markOverrun).lTable = s.lTable := rfl
@[simp] theorem State.markOverrun_mem (s : State) : (s.markOverrun).mem = s.mem := rfl
@[simp] theorem State.markOverrun_dlen (s : State) : (s.markOverrun).dlen = s.dlen := rfl
@[simp] theorem State.markOverrun_klen (s : State) : (s.markOverrun).klen = s.klen := rfl
@[simp] theorem State.markOverrun_err (s : State) : (s.markOverrun).err = s.err := rfl
@[simp] theorem State.markOverrun_ovr (s : State) : (s.markOverrun).ovr = true := rfl
@[simp] theorem State.markOverrun_ecode (s : State) : (s.markOverrun).ecode = s.ecode := rfl
@[simp] theorem State.markOverrun_lastop (s : State) : (s.markOverrun).lastop = s.lastop := rfl
@[simp] theorem State.markOverrun_pend (s : State) : (s.markOverrun).pend = s.pend := rfl
@[simp] theorem State.markOverrun_events (s : State) : (s.markOverrun).events = s.events := rfl
@[simp] theorem State.markOverrun_replies (s : State) : (s.markOverrun).replies = s.replies := rfl
@[simp] theorem State.markOverrun_draws (s : State) : (s.markOverrun).draws = s.draws := rfl
@[simp] theorem State.markOverrun_w (s : State) : (s.markOverrun).w = s.w := rfl
@[simp] theorem State.markOverrun_u (s : State) : (s.markOverrun).u = s.u := rfl
@[simp] theorem State.markOverrun_r (s : State) : (s.markOverrun).r = s.r := rfl
@[simp] theorem State.markOverrun_b (s : State) : (s.markOverrun).b = s.b := rfl
@[simp] theorem State.markOverrun_t (s : State) : (s.markOverrun).t = s.t := rfl
@[simp] theorem State.markOverrun_c (s : State) : (s.markOverrun).c = s.c := rfl
@[simp] theorem State.markOverrun_roundKey (s : State) (i : Nat) : (s.markOverrun).roundKey i = s.roundKey i := rfl

/-! a CMD write (R26) -/

@[simp] theorem State.issue_params (s : State) (c : BitVec 32) : (s.issue c).params = s.params := rfl
@[simp] theorem State.issue_cfgWsel (s : State) (c : BitVec 32) : (s.issue c).cfgWsel = s.cfgWsel := rfl
@[simp] theorem State.issue_cfgR (s : State) (c : BitVec 32) : (s.issue c).cfgR = s.cfgR := rfl
@[simp] theorem State.issue_cfgB (s : State) (c : BitVec 32) : (s.issue c).cfgB = s.cfgB := rfl
@[simp] theorem State.issue_phase (s : State) (c : BitVec 32) : (s.issue c).phase = s.phase := rfl
@[simp] theorem State.issue_x (s : State) (c : BitVec 32) : (s.issue c).x = s.x := rfl
@[simp] theorem State.issue_sTable (s : State) (c : BitVec 32) : (s.issue c).sTable = s.sTable := rfl
@[simp] theorem State.issue_lTable (s : State) (c : BitVec 32) : (s.issue c).lTable = s.lTable := rfl
@[simp] theorem State.issue_mem (s : State) (c : BitVec 32) : (s.issue c).mem = s.mem := rfl
@[simp] theorem State.issue_dlen (s : State) (c : BitVec 32) : (s.issue c).dlen = s.dlen := rfl
@[simp] theorem State.issue_klen (s : State) (c : BitVec 32) : (s.issue c).klen = s.klen := rfl
@[simp] theorem State.issue_err (s : State) (c : BitVec 32) : (s.issue c).err = s.err := rfl
@[simp] theorem State.issue_ovr (s : State) (c : BitVec 32) : (s.issue c).ovr = s.ovr := rfl
@[simp] theorem State.issue_ecode (s : State) (c : BitVec 32) : (s.issue c).ecode = s.ecode := rfl
@[simp] theorem State.issue_lastop (s : State) (c : BitVec 32) : (s.issue c).lastop = s.lastop := rfl
@[simp] theorem State.issue_pend (s : State) (c : BitVec 32) : (s.issue c).pend = some c := rfl
@[simp] theorem State.issue_events (s : State) (c : BitVec 32) : (s.issue c).events = s.events := rfl
@[simp] theorem State.issue_replies (s : State) (c : BitVec 32) : (s.issue c).replies = s.replies := rfl
@[simp] theorem State.issue_draws (s : State) (c : BitVec 32) : (s.issue c).draws = s.draws := rfl
@[simp] theorem State.issue_w (s : State) (c : BitVec 32) : (s.issue c).w = s.w := rfl
@[simp] theorem State.issue_u (s : State) (c : BitVec 32) : (s.issue c).u = s.u := rfl
@[simp] theorem State.issue_r (s : State) (c : BitVec 32) : (s.issue c).r = s.r := rfl
@[simp] theorem State.issue_b (s : State) (c : BitVec 32) : (s.issue c).b = s.b := rfl
@[simp] theorem State.issue_t (s : State) (c : BitVec 32) : (s.issue c).t = s.t := rfl
@[simp] theorem State.issue_c (s : State) (c : BitVec 32) : (s.issue c).c = s.c := rfl
@[simp] theorem State.issue_roundKey (s : State) (c : BitVec 32) (i : Nat) : (s.issue c).roundKey i = s.roundKey i := rfl

/-! a bus read (R62) -/

@[simp] theorem State.busRead_params (s : State) (a : BitVec 12) : (s.busRead a).params = s.params := rfl
@[simp] theorem State.busRead_cfgWsel (s : State) (a : BitVec 12) : (s.busRead a).cfgWsel = s.cfgWsel := rfl
@[simp] theorem State.busRead_cfgR (s : State) (a : BitVec 12) : (s.busRead a).cfgR = s.cfgR := rfl
@[simp] theorem State.busRead_cfgB (s : State) (a : BitVec 12) : (s.busRead a).cfgB = s.cfgB := rfl
@[simp] theorem State.busRead_phase (s : State) (a : BitVec 12) : (s.busRead a).phase = s.phase := rfl
@[simp] theorem State.busRead_x (s : State) (a : BitVec 12) : (s.busRead a).x = s.x := rfl
@[simp] theorem State.busRead_sTable (s : State) (a : BitVec 12) : (s.busRead a).sTable = s.sTable := rfl
@[simp] theorem State.busRead_lTable (s : State) (a : BitVec 12) : (s.busRead a).lTable = s.lTable := rfl
@[simp] theorem State.busRead_mem (s : State) (a : BitVec 12) : (s.busRead a).mem = s.mem := rfl
@[simp] theorem State.busRead_dlen (s : State) (a : BitVec 12) : (s.busRead a).dlen = s.dlen := rfl
@[simp] theorem State.busRead_klen (s : State) (a : BitVec 12) : (s.busRead a).klen = s.klen := rfl
@[simp] theorem State.busRead_err (s : State) (a : BitVec 12) : (s.busRead a).err = s.err := rfl
@[simp] theorem State.busRead_ovr (s : State) (a : BitVec 12) : (s.busRead a).ovr = s.ovr := rfl
@[simp] theorem State.busRead_ecode (s : State) (a : BitVec 12) : (s.busRead a).ecode = s.ecode := rfl
@[simp] theorem State.busRead_lastop (s : State) (a : BitVec 12) : (s.busRead a).lastop = s.lastop := rfl
@[simp] theorem State.busRead_pend (s : State) (a : BitVec 12) : (s.busRead a).pend = s.pend := rfl
@[simp] theorem State.busRead_events (s : State) (a : BitVec 12) : (s.busRead a).events = s.events := rfl
@[simp] theorem State.busRead_replies (s : State) (a : BitVec 12) : (s.busRead a).replies = s.replies ++ [s.regValue (busReg a)] := rfl
@[simp] theorem State.busRead_draws (s : State) (a : BitVec 12) : (s.busRead a).draws = s.draws + 4 := rfl
@[simp] theorem State.busRead_w (s : State) (a : BitVec 12) : (s.busRead a).w = s.w := rfl
@[simp] theorem State.busRead_u (s : State) (a : BitVec 12) : (s.busRead a).u = s.u := rfl
@[simp] theorem State.busRead_r (s : State) (a : BitVec 12) : (s.busRead a).r = s.r := rfl
@[simp] theorem State.busRead_b (s : State) (a : BitVec 12) : (s.busRead a).b = s.b := rfl
@[simp] theorem State.busRead_t (s : State) (a : BitVec 12) : (s.busRead a).t = s.t := rfl
@[simp] theorem State.busRead_c (s : State) (a : BitVec 12) : (s.busRead a).c = s.c := rfl
@[simp] theorem State.busRead_roundKey (s : State) (a : BitVec 12) (i : Nat) : (s.busRead a).roundKey i = s.roundKey i := rfl

/-! the reset input (R310) -/

@[simp] theorem State.resetInput_params (s : State) : (s.resetInput).params = s.params := rfl
@[simp] theorem State.resetInput_cfgWsel (s : State) : (s.resetInput).cfgWsel = (State.resetFor s.params).cfgWsel := rfl
@[simp] theorem State.resetInput_cfgR (s : State) : (s.resetInput).cfgR = (State.resetFor s.params).cfgR := rfl
@[simp] theorem State.resetInput_cfgB (s : State) : (s.resetInput).cfgB = (State.resetFor s.params).cfgB := rfl
@[simp] theorem State.resetInput_phase (s : State) : (s.resetInput).phase = (State.resetFor s.params).phase := rfl
@[simp] theorem State.resetInput_x (s : State) : (s.resetInput).x = (State.resetFor s.params).x := rfl
@[simp] theorem State.resetInput_sTable (s : State) : (s.resetInput).sTable = (State.resetFor s.params).sTable := rfl
@[simp] theorem State.resetInput_lTable (s : State) : (s.resetInput).lTable = (State.resetFor s.params).lTable := rfl
@[simp] theorem State.resetInput_mem (s : State) : (s.resetInput).mem = (State.resetFor s.params).mem := rfl
@[simp] theorem State.resetInput_dlen (s : State) : (s.resetInput).dlen = (State.resetFor s.params).dlen := rfl
@[simp] theorem State.resetInput_klen (s : State) : (s.resetInput).klen = (State.resetFor s.params).klen := rfl
@[simp] theorem State.resetInput_err (s : State) : (s.resetInput).err = (State.resetFor s.params).err := rfl
@[simp] theorem State.resetInput_ovr (s : State) : (s.resetInput).ovr = (State.resetFor s.params).ovr := rfl
@[simp] theorem State.resetInput_ecode (s : State) : (s.resetInput).ecode = (State.resetFor s.params).ecode := rfl
@[simp] theorem State.resetInput_lastop (s : State) : (s.resetInput).lastop = (State.resetFor s.params).lastop := rfl
@[simp] theorem State.resetInput_pend (s : State) : (s.resetInput).pend = (State.resetFor s.params).pend := rfl
@[simp] theorem State.resetInput_events (s : State) : (s.resetInput).events = s.events := rfl
@[simp] theorem State.resetInput_replies (s : State) : (s.resetInput).replies = s.replies := rfl
@[simp] theorem State.resetInput_draws (s : State) : (s.resetInput).draws = s.draws := rfl

/-! a command placed for the next step -/

@[simp] theorem State.withPending_params (s : State) (c : BitVec 32) : (s.withPending c).params = s.params := rfl
@[simp] theorem State.withPending_cfgWsel (s : State) (c : BitVec 32) : (s.withPending c).cfgWsel = s.cfgWsel := rfl
@[simp] theorem State.withPending_cfgR (s : State) (c : BitVec 32) : (s.withPending c).cfgR = s.cfgR := rfl
@[simp] theorem State.withPending_cfgB (s : State) (c : BitVec 32) : (s.withPending c).cfgB = s.cfgB := rfl
@[simp] theorem State.withPending_phase (s : State) (c : BitVec 32) : (s.withPending c).phase = s.phase := rfl
@[simp] theorem State.withPending_x (s : State) (c : BitVec 32) : (s.withPending c).x = s.x := rfl
@[simp] theorem State.withPending_sTable (s : State) (c : BitVec 32) : (s.withPending c).sTable = s.sTable := rfl
@[simp] theorem State.withPending_lTable (s : State) (c : BitVec 32) : (s.withPending c).lTable = s.lTable := rfl
@[simp] theorem State.withPending_mem (s : State) (c : BitVec 32) : (s.withPending c).mem = s.mem := rfl
@[simp] theorem State.withPending_dlen (s : State) (c : BitVec 32) : (s.withPending c).dlen = s.dlen := rfl
@[simp] theorem State.withPending_klen (s : State) (c : BitVec 32) : (s.withPending c).klen = s.klen := rfl
@[simp] theorem State.withPending_err (s : State) (c : BitVec 32) : (s.withPending c).err = s.err := rfl
@[simp] theorem State.withPending_ovr (s : State) (c : BitVec 32) : (s.withPending c).ovr = s.ovr := rfl
@[simp] theorem State.withPending_ecode (s : State) (c : BitVec 32) : (s.withPending c).ecode = s.ecode := rfl
@[simp] theorem State.withPending_lastop (s : State) (c : BitVec 32) : (s.withPending c).lastop = s.lastop := rfl
@[simp] theorem State.withPending_pend (s : State) (c : BitVec 32) : (s.withPending c).pend = some c := rfl
@[simp] theorem State.withPending_events (s : State) (c : BitVec 32) : (s.withPending c).events = .complete :: s.events := rfl
@[simp] theorem State.withPending_replies (s : State) (c : BitVec 32) : (s.withPending c).replies = s.replies := rfl
@[simp] theorem State.withPending_draws (s : State) (c : BitVec 32) : (s.withPending c).draws = s.draws := rfl
@[simp] theorem State.withPending_w (s : State) (c : BitVec 32) : (s.withPending c).w = s.w := rfl
@[simp] theorem State.withPending_u (s : State) (c : BitVec 32) : (s.withPending c).u = s.u := rfl
@[simp] theorem State.withPending_r (s : State) (c : BitVec 32) : (s.withPending c).r = s.r := rfl
@[simp] theorem State.withPending_b (s : State) (c : BitVec 32) : (s.withPending c).b = s.b := rfl
@[simp] theorem State.withPending_t (s : State) (c : BitVec 32) : (s.withPending c).t = s.t := rfl
@[simp] theorem State.withPending_c (s : State) (c : BitVec 32) : (s.withPending c).c = s.c := rfl
@[simp] theorem State.withPending_roundKey (s : State) (c : BitVec 32) (i : Nat) : (s.withPending c).roundKey i = s.roundKey i := rfl

end Sys2Proof.Machine
end

