-- ==== Sys2Proof/Laws/Memory.lean ====
section
/-! SUPPORT. The laws of the buffers' memory: a read after a write, what a write leaves alone, what reading several
bytes means, and that every memory operation keeps the canonical form and the set of bytes the window holds. -/

namespace Sys2Proof.Machine

@[simp] theorem Memory.read_write_same (m : Memory) (a : Nat) (v : Byte) : (m.write a v).read a = some v := by
  induction m with
  | nil => simp [Memory.write, Memory.read]
  | cons e m ih =>
    obtain ⟨k, b⟩ := e
    simp only [Memory.write]
    split
    · simp [Memory.read]
    · split
      · simp [Memory.read]
      · next h => simp [Memory.read, ih, Ne.symm h]

theorem Memory.read_write_other (m : Memory) {a a' : Nat} (v : Byte) (h : a' ≠ a) :
    (m.write a v).read a' = m.read a' := by
  induction m with
  | nil => simp [Memory.write, Memory.read, Ne.symm h]
  | cons e m ih =>
    obtain ⟨k, b⟩ := e
    simp only [Memory.write]
    split
    · simp [Memory.read, Ne.symm h]
    · split
      · next hk => subst hk; simp [Memory.read, Ne.symm h]
      · simp [Memory.read, ih]

theorem Memory.read_writeBytes_outside (m : Memory) (a : Nat) (bs : List Byte) {a' : Nat}
    (h : a' < a ∨ a + bs.length ≤ a') : (m.writeBytes a bs).read a' = m.read a' := by
  induction bs generalizing m a with
  | nil => rfl
  | cons b bs ih =>
    simp only [List.length_cons] at h
    rw [Memory.writeBytes, ih _ _ (by omega), Memory.read_write_other _ _ (by omega)]

theorem Memory.read_writeBytes_inside (m : Memory) (a : Nat) (bs : List Byte) {k : Nat} (h : k < bs.length) :
    (m.writeBytes a bs).read (a + k) = some bs[k] := by
  induction bs generalizing m a k with
  | nil => simp at h
  | cons b bs ih =>
    rw [Memory.writeBytes]
    cases k with
    | zero => rw [Memory.read_writeBytes_outside _ _ _ (by omega)]; simp
    | succ k =>
      have := ih (m.write a b) (a + 1) (k := k) (by simpa using h)
      rw [show a + (k + 1) = a + 1 + k by omega, this]; simp

theorem Memory.readBytes_eq_some (m : Memory) (a n : Nat) (bs : List Byte) :
    m.readBytes a n = some bs ↔ bs.length = n ∧ ∀ k (h : k < bs.length), m.read (a + k) = some bs[k] := by
  induction n generalizing a bs with
  | zero =>
    rw [Memory.readBytes]
    constructor
    · intro h; cases h; simp
    · rintro ⟨h, -⟩; rw [List.length_eq_zero_iff.mp h]
  | succ n ih =>
    rw [Memory.readBytes]
    constructor
    · intro h
      split at h
      · next b bs' hb hbs =>
        cases h
        obtain ⟨hl, hk⟩ := (ih _ _).mp hbs
        refine ⟨by simp [hl], fun k h => ?_⟩
        cases k with
        | zero => simpa using hb
        | succ k =>
          rw [show a + (k + 1) = a + 1 + k by omega, hk k (by simpa using h)]; simp
      · cases h
    · rintro ⟨hl, hk⟩
      cases bs with
      | nil => simp at hl
      | cons b bs =>
        have h0 : m.read a = some b := hk 0 (Nat.succ_pos _)
        have h1 : m.readBytes (a + 1) n = some bs := (ih _ _).mpr ⟨by simpa using hl, fun k h => by
          have := hk (k + 1) (by simpa using h)
          rw [show a + (k + 1) = a + 1 + k by omega] at this
          simpa using this⟩
        simp [h0, h1]

theorem Memory.readBytes_eq_none (m : Memory) (a n : Nat) :
    m.readBytes a n = none ↔ ∃ k, k < n ∧ m.read (a + k) = none := by
  induction n generalizing a with
  | zero => simp [Memory.readBytes]
  | succ n ih =>
    rw [Memory.readBytes]
    constructor
    · intro h
      cases h0 : m.read a with
      | none => exact ⟨0, by omega, by simpa using h0⟩
      | some b =>
        cases h1 : m.readBytes (a + 1) n with
        | none =>
          obtain ⟨k, hk, hr⟩ := (ih _).mp h1
          exact ⟨k + 1, by omega, by rw [← hr]; congr 1; omega⟩
        | some bs => simp [h0, h1] at h
    · rintro ⟨k, hk, hr⟩
      cases k with
      | zero => rw [Nat.add_zero] at hr; simp [hr]
      | succ k =>
        have h1 : m.readBytes (a + 1) n = none :=
          (ih _).mpr ⟨k, by omega, by rw [← hr]; congr 1; omega⟩
        simp [h1]

theorem Memory.write_risesFrom (m : Memory) {low a : Nat} (v : Byte) (hm : m.risesFrom low = true) (ha : low ≤ a) :
    (m.write a v).risesFrom low = true := by
  induction m generalizing low with
  | nil => simp [Memory.write, Memory.risesFrom, ha]
  | cons e m ih =>
    obtain ⟨k, b⟩ := e
    simp only [Memory.risesFrom, Bool.and_eq_true, decide_eq_true_eq] at hm
    simp only [Memory.write]
    split
    · simp only [Memory.risesFrom, Bool.and_eq_true, decide_eq_true_eq]
      exact ⟨ha, by omega, hm.2⟩
    · split
      · next hk => subst hk; simp [Memory.risesFrom, ha, hm.2]
      · simp only [Memory.risesFrom, Bool.and_eq_true, decide_eq_true_eq]
        exact ⟨hm.1, ih hm.2 (by omega)⟩

/-- A byte write keeps the canonical form. -/
theorem Memory.write_wf (m : Memory) (a : Nat) (v : Byte) (h : m.wf = true) : (m.write a v).wf = true :=
  Memory.write_risesFrom m v h (Nat.zero_le a)

/-- A write of several bytes keeps the canonical form. -/
theorem Memory.writeBytes_wf (m : Memory) (a : Nat) (bs : List Byte) (h : m.wf = true) :
    (m.writeBytes a bs).wf = true := by
  induction bs generalizing m a with
  | nil => exact h
  | cons b bs ih => exact ih _ _ (Memory.write_wf m a b h)

theorem Memory.mem_write (m : Memory) {a : Nat} {v : Byte} {e : Host.Cell} (h : e ∈ m.write a v) :
    e ∈ m ∨ e = (a, v) := by
  induction m with
  | nil => right; simpa [Memory.write] using h
  | cons f m ih =>
    obtain ⟨k, b⟩ := f
    simp only [Memory.write] at h
    split at h
    · simp only [List.mem_cons] at h ⊢; tauto
    · split at h
      · simp only [List.mem_cons] at h ⊢; tauto
      · simp only [List.mem_cons] at h ⊢
        rcases h with h | h
        · exact Or.inl (Or.inl h)
        · rcases ih h with h | h
          · exact Or.inl (Or.inr h)
          · exact Or.inr h

/-- Every entry after a write of several bytes was there before or lies in the bytes written. -/
theorem Memory.mem_writeBytes (m : Memory) (a : Nat) (bs : List Byte) {e : Host.Cell}
    (h : e ∈ m.writeBytes a bs) : e ∈ m ∨ (a ≤ e.1 ∧ e.1 < a + bs.length) := by
  induction bs generalizing m a with
  | nil => exact Or.inl h
  | cons b bs ih =>
    rcases ih _ _ h with h | h
    · rcases Memory.mem_write m h with h | h
      · exact Or.inl h
      · right; subst h; simp
    · right; simp only [List.length_cons]; omega

/-- The bytes of the buffers, by offset (R23): DIN, DOUT, KEYBUF. -/
theorem isBufferByte_iff (a : Nat) :
    isBufferByte a = true ↔ (0x020 ≤ a ∧ a < 0x040) ∨ (0x040 ≤ a ∧ a < 0x060) ∨ (0x100 ≤ a ∧ a < 0x200) := by
  simp only [isBufferByte, Bool.or_eq_true, Bool.and_eq_true, decide_eq_true_eq]
  simp only [dinBase, doutBase, keyBase, blkBytes, keybufBytes]
  omega

/-- The memory right after reset is in canonical form. -/
theorem reset_mem_wf (p : Params) : (State.resetFor p).mem.wf = true := rfl

end Sys2Proof.Machine
end

