-- ==== Sys2Proof/Laws/WordUnit.lean ====
section
/-! SUPPORT. The word unit's own lemmas: words in cells, the sums as numbers, and the lengths of byte strings. -/

namespace Sys2Proof.Machine

theorem widthBits_le (wd : Width) : widthBits wd ≤ 128 := by cases wd <;> decide

theorem widthBits_pos (wd : Width) : 0 < widthBits wd := by cases wd <;> decide

theorem widthBits_eq_bytes (wd : Width) : 8 * (widthBits wd / 8) = widthBits wd := by cases wd <;> rfl

theorem State.w_le (s : State) : s.w ≤ 128 := widthBits_le s.cfgWsel

theorem State.w_pos (s : State) : 0 < s.w := widthBits_pos s.cfgWsel

theorem State.u_le (s : State) : s.u ≤ 16 := by
  have := s.w_le
  unfold State.u
  omega

theorem State.eight_mul_u (s : State) : 8 * s.u = s.w := widthBits_eq_bytes s.cfgWsel

/-- The WSEL codes name the widths back. -/
@[simp] theorem widthOfCode_widthCode (wd : Width) : widthOfCode (widthCode wd) = some wd := by
  cases wd <;> decide

theorem widthOfCode_eq_none (wsel : BitVec 3) : widthOfCode wsel = none ↔ wselLegal wsel = false := by
  revert wsel; decide

variable {w : Nat}

/-- A word fits its cell, so a cell that holds it gives it back. -/
theorem toWord_toCell (v : Word w) (h : w ≤ 128) : v.toCell.toWord w = v := by
  apply BitVec.eq_of_toNat_eq
  simp only [Cell.toWord, Word.toCell, BitVec.toNat_setWidth]
  have hv := v.isLt
  have hp : 2 ^ w ≤ 2 ^ 128 := Nat.pow_le_pow_right (by omega) h
  rw [Nat.mod_eq_of_lt (a := v.toNat) (by omega), Nat.mod_eq_of_lt hv]

/-- The number in the cell that holds a word. -/
theorem toCell_toNat (v : Word w) (h : w ≤ 128) : v.toCell.toNat = v.toNat := by
  simp only [Word.toCell, BitVec.toNat_setWidth]
  have hp : 2 ^ w ≤ 2 ^ 128 := Nat.pow_le_pow_right (by omega) h
  exact Nat.mod_eq_of_lt (Nat.lt_of_lt_of_le v.isLt hp)

/-- A cell that holds a word holds a number below `2^w` (R21, R31). -/
theorem toCell_toNat_lt (v : Word w) : v.toCell.toNat < 2 ^ w := by
  simp only [Word.toCell, BitVec.toNat_setWidth]
  exact Nat.lt_of_le_of_lt (Nat.mod_le _ _) v.isLt

theorem toWord_toNat (c : Cell) : (c.toWord w).toNat = c.toNat % 2 ^ w := by
  simp [Cell.toWord, BitVec.toNat_setWidth]

theorem addW_toNat (a b : Word w) : (addW a b).toNat = (a.toNat + b.toNat) % 2 ^ w := by
  simp [addW, BitVec.toNat_add]

/-- The complement-and-add form of R123 is the difference. -/
theorem subW_eq_sub (a b : Word w) : subW a b = a - b := by
  rw [subW, BitVec.sub_eq_add_neg, BitVec.neg_eq_not_add, BitVec.add_assoc]; rfl

@[simp] theorem length_toBytesLe (v : Word w) : (toBytesLe v).length = w / 8 := by simp [toBytesLe]

@[simp] theorem length_toBytesBe (v : Word w) : (toBytesBe v).length = w / 8 := by simp [toBytesBe]

@[simp] theorem length_bytesOfBlock (p : Block w) : (bytesOfBlock p).length = 2 * (w / 8) := by
  simp [bytesOfBlock]; omega

@[simp] theorem length_arithmeticTable (q first : Word w) (n : Nat) :
    (arithmeticTable q n first).length = n := by
  induction n generalizing first with
  | zero => rfl
  | succ n ih => simp [arithmeticTable, ih]

@[simp] theorem length_mixLoop_s (t c n : Nat) (m : Mix w) : (mixLoop t c n m).s.length = m.s.length := by
  induction n generalizing m with
  | zero => rfl
  | succ n ih => rw [mixLoop, ih]; simp [mixStep]

/-- The key schedule gives exactly `t` round keys (R203). -/
@[simp] theorem length_keySchedule (p q : Word w) (t c : Nat) (key : List Byte) :
    (keySchedule p q t c key).length = t := by
  simp [keySchedule, generateS]

end Sys2Proof.Machine
end

