-- ==== Sys2Proof/Laws/Ops.lean ====
section
/-! SUPPORT. For each shared operation, one lemma that says once everything it can do, and the lemmas that run it. -/

namespace Sys2Proof.Machine

/-- What check (1) can do. -/
theorem whenLegal_next {legal : Bool} {op : BitVec 8} {s s' : State} {rest : Result}
    (h : whenLegal legal op s rest = .next s') :
    (legal = true ∧ rest = .next s') ∨ (legal = false ∧ s' = s.raise .illegal op) := by
  cases legal with
  | true => exact Or.inl ⟨rfl, h⟩
  | false => right; exact ⟨rfl, by simpa [whenLegal] using h.symm⟩

@[simp] theorem whenLegal_true (op : BitVec 8) (s : State) (rest : Result) : whenLegal true op s rest = rest := rfl

@[simp] theorem whenLegal_false (op : BitVec 8) (s : State) (rest : Result) :
    whenLegal false op s rest = .next (s.raise .illegal op) := rfl

/-- What check (2) can do. -/
theorem whenConfigured_next {op : BitVec 8} {s s' : State} {rest : Result}
    (h : whenConfigured op s rest = .next s') :
    (s.phase ≠ .uncfg ∧ rest = .next s') ∨ (s.phase = .uncfg ∧ s' = s.raise .notConfigured op) := by
  unfold whenConfigured at h
  split at h
  · next hp => right; exact ⟨hp, by simpa using h.symm⟩
  · next hp => exact Or.inl ⟨hp, h⟩

theorem whenConfigured_of_configured {op : BitVec 8} {s : State} (rest : Result) (h : s.phase ≠ .uncfg) :
    whenConfigured op s rest = rest := by simp [whenConfigured, h]

theorem whenConfigured_of_uncfg {op : BitVec 8} {s : State} (rest : Result) (h : s.phase = .uncfg) :
    whenConfigured op s rest = .next (s.raise .notConfigured op) := by simp [whenConfigured, h]

/-- What checks (2) and (3) can do. -/
theorem whenReady_next {op : BitVec 8} {s s' : State} {rest : Result} (h : whenReady op s rest = .next s') :
    (s.phase = .ready ∧ rest = .next s') ∨ (s.phase = .cfgd ∧ s' = s.raise .notReady op) ∨
      (s.phase = .uncfg ∧ s' = s.raise .notConfigured op) := by
  rcases whenConfigured_next h with ⟨hp, h⟩ | h
  · split at h
    · next hr => exact Or.inl ⟨hr, h⟩
    · next hr =>
      refine Or.inr (Or.inl ⟨?_, by simpa using h.symm⟩)
      cases hc : s.phase <;> simp_all
  · exact Or.inr (Or.inr h)

theorem whenReady_of_ready {op : BitVec 8} {s : State} (rest : Result) (h : s.phase = .ready) :
    whenReady op s rest = rest := by simp [whenReady, whenConfigured, h]

theorem whenReady_of_cfgd {op : BitVec 8} {s : State} (rest : Result) (h : s.phase = .cfgd) :
    whenReady op s rest = .next (s.raise .notReady op) := by simp [whenReady, whenConfigured, h]

theorem whenReady_of_uncfg {op : BitVec 8} {s : State} (rest : Result) (h : s.phase = .uncfg) :
    whenReady op s rest = .next (s.raise .notConfigured op) := by simp [whenReady, whenConfigured, h]

/-- What the end of a word command does: it always completes. -/
theorem writeWord_eq {w : Nat} (op : BitVec 8) (rd : Reg) (v : Word w) (s : State) :
    writeWord op rd v s = .next ((s.setWord rd v).finish op) := rfl

/-- Reading back a register: the register written holds the word, every other its old value. -/
theorem setWord_get {w : Nat} (rd r : Reg) (v : Word w) (s : State) :
    (s.setWord rd v).x.get r = if r = rd then v.toCell else s.x.get r := by
  simp only [State.setWord_x, Vector.get_eq_getElem, Vector.getElem_set]
  by_cases h : rd.val = r.val
  · simp [h, Fin.ext_iff]
  · simp [h, Fin.ext_iff, Ne.symm h]

/-- What a block command can do: one of its errors in the order of R281, or the block's result in DOUT. -/
theorem blockCommand_next {op : BitVec 8} {s s' : State} {f : Block s.w → Block s.w}
    (h : blockCommand op s f = .next s') :
    (s.phase = .uncfg ∧ s' = s.raise .notConfigured op) ∨ (s.phase = .cfgd ∧ s' = s.raise .notReady op) ∨
      (s.phase = .ready ∧ s.dlen.toNat ≠ 2 * s.u ∧ s' = s.raise .length op) ∨
      (s.phase = .ready ∧ s.dlen.toNat = 2 * s.u ∧ ∃ bytes, s.dinBytes 0 (2 * s.u) = some bytes ∧
        s' = (s.setDout 0 (bytesOfBlock (f (blockOfBytes s.w bytes)))).finish op) := by
  rcases whenReady_next h with ⟨hp, h⟩ | h | h
  · split at h
    · next hl => exact Or.inr (Or.inr (Or.inl ⟨hp, hl, by simpa using h.symm⟩))
    · next hl =>
      split at h
      · cases h
      · next bytes hb =>
        exact Or.inr (Or.inr (Or.inr ⟨hp, by simpa using hl, bytes, hb, by simpa using h.symm⟩))
  · exact Or.inr (Or.inl h)
  · exact Or.inl h

/-- A block command stops only on a DIN byte that nothing has written. -/
theorem blockCommand_fault {op : BitVec 8} {s : State} {f : Block s.w → Block s.w} {e : Fault}
    (h : blockCommand op s f = .fault e) :
    e = .unwrittenInputByte ∧ s.dinBytes 0 (2 * s.u) = none := by
  unfold blockCommand whenReady whenConfigured at h
  repeat' split at h
  all_goals first | cases h; done | skip
  all_goals simp_all

end Sys2Proof.Machine
end

