-- ==== Sys2Proof/Laws/Turn.lean ====
section
/-! SUPPORT. What a step can do, said once (rules R72, R320), and the lemmas that run each kind of step. -/

namespace Sys2Proof.Machine

theorem complete_ok {c : BitVec 32} {i : Instr} (s : State) (h : decode c = .ok i) : complete c s = exec i s := by
  simp [complete, h]

theorem complete_error {c : BitVec 32} {e : DecodeError} (s : State) (h : decode c = .error e) :
    complete c s = .next (s.raise .illegal (opField c)) := by
  simp [complete, h]

theorem engineTurn_idle {s : State} (h : s.pend = none) : engineTurn s = .next s := by simp [engineTurn, h]

theorem engineTurn_pending {s : State} {c : BitVec 32} (h : s.pend = some c) : engineTurn s = complete c s := by
  simp [engineTurn, h]

theorem step_engine {s : State} (h : s.events = []) : step s = engineTurn s := by simp [step, turn, h]

theorem step_complete {s : State} {rest : List Event} (h : s.events = .complete :: rest) :
    step s = engineTurn { s with events := rest } := by simp [step, turn, h]

theorem step_read {s : State} {a : BitVec 12} {rest : List Event} (h : s.events = .read a :: rest) :
    step s = .next (State.busRead a { s with events := rest }) := by simp [step, turn, h]

theorem step_write {s : State} {a : BitVec 12} {v : BitVec 32} {rest : List Event}
    (h : s.events = .write a v :: rest) :
    step s = .next (State.busWrite a v { s with events := rest }) := by simp [step, turn, h]

theorem step_reset {s : State} {rest : List Event} (h : s.events = .reset :: rest) :
    step s = .next (State.resetInput { s with events := rest }) := by simp [step, turn, h]

/-- What the engine's turn can do when it goes on: idle, complete an illegal word, or run a decoded command. -/
theorem engineTurn_next {s s' : State} (h : engineTurn s = .next s') :
    (s.pend = none ∧ s' = s) ∨
    (∃ c e, s.pend = some c ∧ decode c = .error e ∧ s' = s.raise .illegal (opField c)) ∨
    (∃ c i, s.pend = some c ∧ decode c = .ok i ∧ exec i s = .next s') := by
  cases hp : s.pend with
  | none =>
    rw [engineTurn_idle hp] at h
    exact Or.inl ⟨rfl, by simpa using h.symm⟩
  | some c =>
    rw [engineTurn_pending hp] at h
    cases hd : decode c with
    | error e => rw [complete_error _ hd] at h; exact Or.inr (Or.inl ⟨c, e, rfl, hd, by simpa using h.symm⟩)
    | ok i => rw [complete_ok _ hd] at h; exact Or.inr (Or.inr ⟨c, i, rfl, hd, h⟩)

/-- The state a step acts on: the state with its next event, if there is one, taken off the list. -/
def State.popped (s : State) : State := { s with events := s.events.tail }

/-- Everything a step that goes on can do: the engine's turn, a bus read, a bus write, or the reset input. -/
theorem step_cases {s s' : State} (h : step s = .next s') :
    engineTurn s.popped = .next s' ∨ (∃ a, s' = s.popped.busRead a) ∨ (∃ a v, s' = s.popped.busWrite a v) ∨
      s' = s.popped.resetInput := by
  cases he : s.events with
  | nil =>
    have hpop : s.popped = s := by cases s; simp_all [State.popped]
    rw [step_engine he] at h
    exact Or.inl (by rw [hpop]; exact h)
  | cons ev rest =>
    have hpop : ({ s with events := rest } : State) = s.popped := by simp [State.popped, he]
    cases ev with
    | complete =>
      rw [step_complete he, hpop] at h
      exact Or.inl h
    | read a =>
      rw [step_read he, hpop] at h
      exact Or.inr (Or.inl ⟨a, by simpa using h.symm⟩)
    | write a v =>
      rw [step_write he, hpop] at h
      exact Or.inr (Or.inr (Or.inl ⟨a, v, by simpa using h.symm⟩))
    | reset =>
      rw [step_reset he, hpop] at h
      exact Or.inr (Or.inr (Or.inr (by simpa using h.symm)))

end Sys2Proof.Machine
end

