-- ==== Sys2Proof/Laws/Exec.lean ====
section
/-! SUPPORT. What a command can do, said once over all commands: an error completion, or one of five kinds of effect
followed by a successful completion. -/

namespace Sys2Proof.Machine

/-- `Effect i s q`: command `i` can succeed in `s`, and its effects alone take `s` to `q` (before `finish`). -/
inductive Effect : Instr → State → State → Prop where
  /-- NOP changes nothing (R200). -/
  | nop (s : State) : Effect .nop s s
  /-- CONFIG creates an instance (R202). -/
  | config (wsel : BitVec 3) (r : BitVec 8) (b : BitVec 12) (s : State) (width : Width)
      (hw : widthOfCode wsel = some width) (hr : r.toNat ≠ 0) (hR : r.toNat ≤ s.params.rmax.toNat)
      (hb : b.toNat ≤ s.params.keyBound.toNat) : Effect (.config wsel r b) s (s.configure width r b)
  /-- SETUP installs the key schedule (R207). -/
  | setup (s : State) (key : List Byte) (hp : s.phase ≠ .uncfg) (hl : s.klen.toNat = s.b)
      (hk : s.keyBytes s.b = some key) :
      Effect .setup s (s.install (keySchedule s.magicP s.magicQ s.t s.c key))
  /-- A word command or RDS writes one word register (R138, R208). -/
  | word (i : Instr) (s : State) (rd : Reg) (v : Word s.w) (hp : s.phase ≠ .uncfg)
      (hd : i.destination = some rd) : Effect i s (s.setWord rd v)
  /-- WST, ENCODE or DECODE writes bytes of DOUT (R151, R250, R251). -/
  | store (i : Instr) (s : State) (n : Nat) (bytes : List Byte) (hp : s.phase ≠ .uncfg)
      (hn : n + bytes.length ≤ 2 * s.u) (hi : i = .encode ∨ i = .decode ∨ ∃ rs1 imm, i = .wst rs1 imm) :
      Effect i s (s.setDout n bytes)

/-- The word commands' shape: configured, one register written. -/
theorem wordCommand_next {i : Instr} {op : BitVec 8} {s s' : State} {rd : Reg} {v : Word s.w} (hop : i.opByte = op)
    (hd : i.destination = some rd) (h : whenConfigured op s (writeWord op rd v s) = .next s') :
    (∃ code, code ≠ .ok ∧ s' = s.raise code i.opByte) ∨ (∃ q, Effect i s q ∧ s' = q.finish i.opByte) := by
  subst hop
  rcases whenConfigured_next h with ⟨hp, h⟩ | ⟨-, h⟩
  · exact Or.inr ⟨_, .word i s rd v hp hd, by simpa [writeWord_eq] using h.symm⟩
  · exact Or.inl ⟨_, by decide, h⟩

theorem slotIndex_le (imm : BitVec 16) : slotIndex imm ≤ 1 := by
  have h := (imm.extractLsb' 0 1).isLt
  unfold slotIndex
  omega

@[simp] theorem length_storeBytes (s : State) (rs1 : Reg) (imm : BitVec 16) : (s.storeBytes rs1 imm).length = s.u := by
  unfold State.storeBytes
  split
  · exact length_toBytesBe _
  · exact length_toBytesLe _

/-- A slot of `u` bytes lies in the block (R150, R151). -/
theorem slotBase_add_le (s : State) (imm : BitVec 16) : s.slotBase imm + s.u ≤ 2 * s.u := by
  have h := Nat.mul_le_mul_right s.u (slotIndex_le imm)
  unfold State.slotBase
  omega

/-- The block commands' shape. -/
theorem blockCommand_effect {i : Instr} {op : BitVec 8} {s s' : State} {f : Block s.w → Block s.w} (hop : i.opByte = op)
    (hi : i = .encode ∨ i = .decode) (h : blockCommand op s f = .next s') :
    (∃ code, code ≠ .ok ∧ s' = s.raise code i.opByte) ∨ (∃ q, Effect i s q ∧ s' = q.finish i.opByte) := by
  subst hop
  rcases blockCommand_next h with ⟨-, h⟩ | ⟨-, h⟩ | ⟨-, -, h⟩ | ⟨hp, -, bytes, -, h⟩
  · exact Or.inl ⟨_, by decide, h⟩
  · exact Or.inl ⟨_, by decide, h⟩
  · exact Or.inl ⟨_, by decide, h⟩
  · exact Or.inr ⟨_, .store i s 0 _ (by simp [hp]) (by simp [State.u]) (hi.imp_right Or.inl), h⟩

/-- Everything a command that goes on can do: an error completion with its own opcode byte, or an effect followed by a
successful completion. -/
theorem exec_next {i : Instr} {s s' : State} (h : exec i s = .next s') :
    (∃ code, code ≠ .ok ∧ s' = s.raise code i.opByte) ∨ (∃ q, Effect i s q ∧ s' = q.finish i.opByte) := by
  cases i with
  | nop => exact Or.inr ⟨s, .nop s, by simpa [exec, execNop, Instr.opByte] using h.symm⟩
  | config wsel r b =>
    simp only [exec, execConfig] at h
    split at h
    · exact Or.inl ⟨.illegal, by decide, by simpa [Instr.opByte] using h.symm⟩
    · next width hw =>
      split at h
      · exact Or.inl ⟨.badParam, by decide, by simpa [Instr.opByte] using h.symm⟩
      · next hr =>
        split at h
        · exact Or.inl ⟨.keySize, by decide, by simpa [Instr.opByte] using h.symm⟩
        · next hb =>
          exact Or.inr ⟨_, .config wsel r b s width hw (by omega) (by omega) (by omega),
            by simpa [Instr.opByte] using h.symm⟩
  | setup =>
    rcases whenConfigured_next (show whenConfigured _ s _ = _ from h) with ⟨hp, h⟩ | ⟨-, h⟩
    · split at h
      · exact Or.inl ⟨.keySize, by decide, by simpa [Instr.opByte] using h.symm⟩
      · next hl =>
        split at h
        · cases h
        · next key hk =>
          exact Or.inr ⟨_, .setup s key hp (by simpa using hl) hk, by simpa [Instr.opByte] using h.symm⟩
    · exact Or.inl ⟨_, by decide, h⟩
  | encode => exact blockCommand_effect rfl (Or.inl rfl) h
  | decode => exact blockCommand_effect rfl (Or.inr rfl) h
  | zero rd => exact wordCommand_next rfl rfl h
  | ldi rd imm => exact wordCommand_next rfl rfl h
  | ldp rd => exact wordCommand_next rfl rfl h
  | ldq rd => exact wordCommand_next rfl rfl h
  | add rd rs1 rs2 => exact wordCommand_next rfl rfl h
  | sub rd rs1 rs2 => exact wordCommand_next rfl rfl h
  | xor rd rs1 rs2 => exact wordCommand_next rfl rfl h
  | or rd rs1 rs2 => exact wordCommand_next rfl rfl h
  | rol rd rs1 rs2 => exact wordCommand_next rfl rfl h
  | ror rd rs1 rs2 => exact wordCommand_next rfl rfl h
  | roli rd rs1 imm => exact wordCommand_next rfl rfl h
  | rori rd rs1 imm => exact wordCommand_next rfl rfl h
  | low32 rd rs1 => exact wordCommand_next rfl rfl h
  | wld rd imm =>
    rcases whenLegal_next (show whenLegal _ _ s _ = _ from h) with ⟨-, h⟩ | ⟨-, h⟩
    · rcases whenConfigured_next h with ⟨hp, h⟩ | ⟨-, h⟩
      · split at h
        · cases h
        · exact Or.inr ⟨_, .word (.wld rd imm) s rd _ hp rfl,
            by simpa [writeWord_eq, Instr.opByte] using h.symm⟩
      · exact Or.inl ⟨_, by decide, h⟩
    · exact Or.inl ⟨_, by decide, h⟩
  | wst rs1 imm =>
    rcases whenLegal_next (show whenLegal _ _ s _ = _ from h) with ⟨-, h⟩ | ⟨-, h⟩
    · rcases whenConfigured_next h with ⟨hp, h⟩ | ⟨-, h⟩
      · exact Or.inr ⟨_, .store (.wst rs1 imm) s (s.slotBase imm) (s.storeBytes rs1 imm) hp
          (by rw [length_storeBytes]; exact slotBase_add_le s imm) (Or.inr (Or.inr ⟨rs1, imm, rfl⟩)),
          by simpa [Instr.opByte] using h.symm⟩
      · exact Or.inl ⟨_, by decide, h⟩
    · exact Or.inl ⟨_, by decide, h⟩
  | rds rd imm =>
    rcases whenReady_next (show whenReady _ s _ = _ from h) with ⟨hp, h⟩ | ⟨-, h⟩ | ⟨-, h⟩
    · split at h
      · exact Or.inl ⟨.index, by decide, by simpa [Instr.opByte] using h.symm⟩
      · exact Or.inr ⟨_, .word (.rds rd imm) s rd _ (by simp [hp]) rfl,
          by simpa [writeWord_eq, Instr.opByte] using h.symm⟩
    · exact Or.inl ⟨_, by decide, h⟩
    · exact Or.inl ⟨_, by decide, h⟩

end Sys2Proof.Machine
end

