-- ==== Sys2Proof/Laws/PerInstr.lean ====
section
/-! SUPPORT. The family `OpByte`: bits [7:0] of every command's word are its opcode byte (rules R90, R96), one lemma per
command. -/

namespace Sys2Proof.Laws

theorem opField_formatN (op : BitVec 8) : opField (formatN op) = op := by
  ext i hi
  simp [opField, formatN, bitsAt, hi]
  omega

theorem opField_formatC (op : BitVec 8) (wsel : BitVec 3) (r : BitVec 8) (b : BitVec 12) :
    opField (formatC op wsel r b) = op := by
  ext i hi
  simp [opField, formatC, bitsAt, hi, show i < 12 by omega, show i < 20 by omega]
  omega

theorem opField_formatR (op : BitVec 8) (rd rs1 rs2 : BitVec 3) : opField (formatR op rd rs1 rs2) = op := by
  ext i hi
  simp [opField, formatR, bitsAt, hi, show i < 12 by omega, show i < 16 by omega]
  omega

theorem opField_formatI (op : BitVec 8) (rd rs1 : BitVec 3) (imm : BitVec 16) :
    opField (formatI op rd rs1 imm) = op := by
  ext i hi
  simp [opField, formatI, bitsAt, hi, show i < 12 by omega, show i < 16 by omega]
  omega

/-- Bits [7:0] of a command's word are its opcode byte. -/
def OpByte.Statement (i : Instr) : Prop := opField (encode i) = i.opByte

theorem OpByte.nop : OpByte.Statement (.nop) := opField_formatN _
theorem OpByte.config (wsel : BitVec 3) (r : BitVec 8) (b : BitVec 12) : OpByte.Statement (.config wsel r b) := opField_formatC _ _ _ _
theorem OpByte.setup : OpByte.Statement (.setup) := opField_formatN _
theorem OpByte.encode : OpByte.Statement (.encode) := opField_formatN _
theorem OpByte.decode : OpByte.Statement (.decode) := opField_formatN _
theorem OpByte.zero (rd : Reg) : OpByte.Statement (.zero rd) := opField_formatR _ _ _ _
theorem OpByte.ldi (rd : Reg) (imm : BitVec 16) : OpByte.Statement (.ldi rd imm) := opField_formatI _ _ _ _
theorem OpByte.ldp (rd : Reg) : OpByte.Statement (.ldp rd) := opField_formatR _ _ _ _
theorem OpByte.ldq (rd : Reg) : OpByte.Statement (.ldq rd) := opField_formatR _ _ _ _
theorem OpByte.add (rd : Reg) (rs1 : Reg) (rs2 : Reg) : OpByte.Statement (.add rd rs1 rs2) := opField_formatR _ _ _ _
theorem OpByte.sub (rd : Reg) (rs1 : Reg) (rs2 : Reg) : OpByte.Statement (.sub rd rs1 rs2) := opField_formatR _ _ _ _
theorem OpByte.xor (rd : Reg) (rs1 : Reg) (rs2 : Reg) : OpByte.Statement (.xor rd rs1 rs2) := opField_formatR _ _ _ _
theorem OpByte.or (rd : Reg) (rs1 : Reg) (rs2 : Reg) : OpByte.Statement (.or rd rs1 rs2) := opField_formatR _ _ _ _
theorem OpByte.rol (rd : Reg) (rs1 : Reg) (rs2 : Reg) : OpByte.Statement (.rol rd rs1 rs2) := opField_formatR _ _ _ _
theorem OpByte.ror (rd : Reg) (rs1 : Reg) (rs2 : Reg) : OpByte.Statement (.ror rd rs1 rs2) := opField_formatR _ _ _ _
theorem OpByte.roli (rd : Reg) (rs1 : Reg) (imm : BitVec 16) : OpByte.Statement (.roli rd rs1 imm) := opField_formatI _ _ _ _
theorem OpByte.rori (rd : Reg) (rs1 : Reg) (imm : BitVec 16) : OpByte.Statement (.rori rd rs1 imm) := opField_formatI _ _ _ _
theorem OpByte.low32 (rd : Reg) (rs1 : Reg) : OpByte.Statement (.low32 rd rs1) := opField_formatR _ _ _ _
theorem OpByte.wld (rd : Reg) (imm : BitVec 16) : OpByte.Statement (.wld rd imm) := opField_formatI _ _ _ _
theorem OpByte.wst (rs1 : Reg) (imm : BitVec 16) : OpByte.Statement (.wst rs1 imm) := opField_formatI _ _ _ _
theorem OpByte.rds (rd : Reg) (imm : BitVec 16) : OpByte.Statement (.rds rd imm) := opField_formatI _ _ _ _

end Sys2Proof.Laws
end

