-- ==== Sys2Proof/Laws/RunEnd.lean ====
section
/-! SUPPORT. Small laws of runs and of what a run shows at its end (rule R323): a run step by step, a run in two parts,
and the updates that no observation sees. -/

namespace Sys2Proof.Machine

@[simp] theorem run_zero (s : State) : Sys2Proof.core.run 0 s = Host.Outcome.next s := rfl

/-! A run of any machine, one step at a time. -/

theorem coreRun_next {M : Host.Core} {s s' : M.State} (n : Nat) (h : M.step s = .next s') :
    M.run (n + 1) s = M.run n s' := by
  simp [Host.Core.run, h]

theorem coreRun_fault {M : Host.Core} {s : M.State} {f : M.Fault} (n : Nat) (h : M.step s = .fault f) :
    M.run (n + 1) s = .fault f := by
  simp [Host.Core.run, h]

theorem coreRun_succ {M : Host.Core} {n : Nat} {s s' : M.State} (h : M.run (n + 1) s = .next s') :
    ∃ q, M.step s = .next q ∧ M.run n q = .next s' := by
  cases hs : M.step s with
  | next q => exact ⟨q, rfl, by rwa [coreRun_next n hs] at h⟩
  | fault f => simp [Host.Core.run, hs] at h
  | refused r => simp [Host.Core.run, hs] at h

/-- A run whose first step goes on is the run of the rest from there. -/
theorem run_succ_of_next {s s' : State} (n : Nat) (h : step s = .next s') :
    Sys2Proof.core.run (n + 1) s = Sys2Proof.core.run n s' := coreRun_next (M := Sys2Proof.core) n h

theorem run_succ_of_fault {s : State} {f : Fault} (n : Nat) (h : step s = .fault f) :
    Sys2Proof.core.run (n + 1) s = Host.Outcome.fault f := coreRun_fault (M := Sys2Proof.core) n h

/-- A run that goes on goes on at its first step. -/
theorem run_succ_next {n : Nat} {s s' : State} (h : Sys2Proof.core.run (n + 1) s = Host.Outcome.next s') :
    ∃ q : State, step s = .next q ∧ Sys2Proof.core.run n q = Host.Outcome.next s' :=
  coreRun_succ (M := Sys2Proof.core) h

/-- A run of `m + n` steps is the run of the last `n` from where the first `m` lead. -/
theorem run_add {m : Nat} (n : Nat) {s s' : State} (h : Sys2Proof.core.run m s = Host.Outcome.next s') :
    Sys2Proof.core.run (m + n) s = Sys2Proof.core.run n s' := by
  induction m generalizing s with
  | zero =>
    cases h
    rw [Nat.zero_add]
  | succ m ih =>
    obtain ⟨q, hq, h⟩ := run_succ_next h
    rw [Nat.succ_add, run_succ_of_next _ hq, ih h]

@[simp] theorem Event.isAccess_complete : Event.complete.isAccess = false := rfl
@[simp] theorem Event.isAccess_reset : Event.reset.isAccess = false := rfl
@[simp] theorem Event.isAccess_read (a : BitVec 12) : (Event.read a).isAccess = true := rfl
@[simp] theorem Event.isAccess_write (a : BitVec 12) (v : BitVec 32) : (Event.write a v).isAccess = true := rfl

@[simp] theorem observation_withEvents (s : State) (evs : List Event) :
    ({ s with events := evs } : State).observation = s.observation := rfl
@[simp] theorem observation_withReplies (s : State) (rs : List (BitVec 32)) :
    ({ s with replies := rs } : State).observation = s.observation := rfl
@[simp] theorem observation_withDraws (s : State) (n : Nat) :
    ({ s with draws := n } : State).observation = s.observation := rfl

/-- No observation sees a read (R69). -/
@[simp] theorem observation_busRead (s : State) (a : BitVec 12) : (s.busRead a).observation = s.observation := rfl

theorem ended_of_busy {s : State} (h : s.busy = true) : s.ended = false := by simp [State.ended, h]

theorem outcome_of_ended {s : State} (h : s.ended = true) : s.outcome = some s.observation := by
  simp [State.outcome, h]

end Sys2Proof.Machine
end

