-- ==== Sys2Proof/Tests/Slice0.lean ====
section
/-! SUPPORT. The package's own tests: the well-formedness smoke tests, every command's decoding from a word written out
from the spec's encoding, one-step tests whose expected results are the spec's (rule examples and
95_test_vectors.md), and, for every statement with hypotheses, a concrete state that meets them. -/

namespace Sys2Proof.Tests
open Sys2Proof.Machine Sys2Proof.Reference

/-! ### Small states -/

/-- The next state of a step that goes on. -/
def nextOf : Result → Option State
  | .next s => some s
  | .fault _ => none
  | .refused _ => none

/-- A check over a list, run element by element. -/
theorem forall_mem_of_all {α : Type} {p : α → Prop} [DecidablePred p] {l : List α}
    (h : (l.all fun a => decide (p a)) = true) : ∀ a ∈ l, p a :=
  fun a ha => of_decide_eq_true (List.all_eq_true.mp h a ha)

/-- One field of the state after the next step runs the command word `c` in `s`. -/
def after {α : Type} (s : State) (c : Nat) (f : State → α) : Option α := (nextOf (step (s.withFetchWord 32 c))).map f

/-- An instance of width `wd` with r = 1 and b = 0, configured and not keyed, whose x1, x2 and x3 hold the given
numbers. -/
def cfgdWith (wd : Width) (x1 x2 x3 : Nat) : State :=
  { State.reset with
    cfgWsel := wd, cfgR := 1#8, phase := .cfgd
    x := #v[0, BitVec.ofNat 128 x1, BitVec.ofNat 128 x2, BitVec.ofNat 128 x3, 0, 0, 0, 0] }

/-- `cfgdWith`, with DIN[k] = k for k = 0..31. -/
def cfgdWithDin (wd : Width) (x1 x2 x3 : Nat) : State :=
  { cfgdWith wd x1 x2 x3 with mem := (List.range 32).map fun k => (dinBase + k, BitVec.ofNat 8 k) }

/-- RC5-8/1/0 keyed: the S of 95_test_vectors.md section 2.5, DLEN = 2 and DIN[0..1] = 00 01. -/
def ready8 : State :=
  { cfgdWith .w8 1 2 3 with
    phase := .ready, sTable := [0x86#128, 0xD5#128, 0x8E#128, 0x81#128], dlen := 2#6
    mem := [(0x20, 0x00#8), (0x21, 0x01#8)] }

/-- RC5-16/1/1 configured, KEY[0] = FF and KLEN = 1 (V8's key). -/
def cfgd16 : State :=
  { cfgdWith .w16 1 2 3 with cfgB := 1#12, klen := 1#9, mem := [(0x100, 0xFF#8)] }

/-- RC5-16/1/1 keyed with V8's key: the next state of SETUP in `cfgd16`. -/
def ready16 : State :=
  match exec .setup cfgd16 with
  | .next s => { s with dlen := 4#6, mem := s.mem.writeBytes dinBase [0xFF#8, 0xFF#8, 0xFF#8, 0xFF#8] }
  | .fault _ => cfgd16
  | .refused _ => cfgd16

/-- CONFIG in flight. -/
def busy : State := { State.reset with pend := some 0x0100C301#32 }

/-! ### Well-formedness: each check refuses an ill-formed term, and accepts its neighbour -/

theorem test_wellFormed_config_wsel7 : (Instr.config 7#3 12#8 16#12).wellFormed = false := by decide
theorem test_wellFormed_config_wsel6 : (Instr.config 6#3 12#8 16#12).wellFormed = true := by decide
theorem test_wellFormed_wld_imm4 : (Instr.wld 2 4#16).wellFormed = false := by decide
theorem test_wellFormed_wld_imm3 : (Instr.wld 2 3#16).wellFormed = true := by decide
theorem test_wellFormed_wst_imm8000 : (Instr.wst 2 0x8000#16).wellFormed = false := by decide
theorem test_wellFormed_wst_imm3 : (Instr.wst 2 3#16).wellFormed = true := by decide

/-! ### Decoding: a word of the spec for every command (the rules' examples and 95_test_vectors.md) -/

theorem test_decode_nop : decodeTableWord 32 0x00000000 = some (.nop) := by decide
theorem test_decode_config : decodeTableWord 32 0x0100C301 = some (.config 3#3 12#8 16#12) := by decide
theorem test_decode_setup : decodeTableWord 32 0x00000002 = some (.setup) := by decide
theorem test_decode_encode : decodeTableWord 32 0x00000003 = some (.encode) := by decide
theorem test_decode_decode : decodeTableWord 32 0x00000004 = some (.decode) := by decide
theorem test_decode_zero : decodeTableWord 32 0x00000310 = some (.zero 3) := by decide
theorem test_decode_ldi : decodeTableWord 32 0x01FF0111 = some (.ldi 1 0x1FF#16) := by decide
theorem test_decode_ldp : decodeTableWord 32 0x00000012 = some (.ldp 0) := by decide
theorem test_decode_ldq : decodeTableWord 32 0x00000713 = some (.ldq 7) := by decide
theorem test_decode_add : decodeTableWord 32 0x00021320 = some (.add 3 1 2) := by decide
theorem test_decode_sub : decodeTableWord 32 0x00021321 = some (.sub 3 1 2) := by decide
theorem test_decode_xor : decodeTableWord 32 0x00021022 = some (.xor 0 1 2) := by decide
theorem test_decode_or : decodeTableWord 32 0x00021423 = some (.or 4 1 2) := by decide
theorem test_decode_rol : decodeTableWord 32 0x00021324 = some (.rol 3 1 2) := by decide
theorem test_decode_ror : decodeTableWord 32 0x00021325 = some (.ror 3 1 2) := by decide
theorem test_decode_roli : decodeTableWord 32 0x00241226 = some (.roli 2 1 36#16) := by decide
theorem test_decode_rori : decodeTableWord 32 0x00091127 = some (.rori 1 1 9#16) := by decide
theorem test_decode_low32 : decodeTableWord 32 0x00001228 = some (.low32 2 1) := by decide
theorem test_decode_wld : decodeTableWord 32 0x00030230 = some (.wld 2 3#16) := by decide
theorem test_decode_wst : decodeTableWord 32 0x00021031 = some (.wst 1 2#16) := by decide
theorem test_decode_rds : decodeTableWord 32 0x00190432 = some (.rds 4 25#16) := by decide

/-! The illegal words of 95_test_vectors.md section 2.8. -/

theorem test_illegal_E2 : (match decode 0x00000100#32 with | .error e => some e | .ok _ => none) = some .reservedBit := by decide
theorem test_illegal_E7 : (match decode 0x00000005#32 with | .error e => some e | .ok _ => none) = some .reservedOpcode := by decide
theorem test_illegal_E9 : (match decode 0x00000701#32 with | .error e => some e | .ok _ => none) = some .widthSelect := by decide
theorem test_illegal_E10 : (match decode 0x0100CB01#32 with | .error e => some e | .ok _ => none) = some .reservedBit := by decide
theorem test_illegal_E20 : (match decode 0x00080020#32 with | .error e => some e | .ok _ => none) = some .reservedBit := by decide
theorem test_illegal_E21 : (match decode 0x00041230#32 with | .error e => some e | .ok _ => none) = some .unusedField := by decide
theorem test_illegal_E22 : (match decode 0x00001130#32 with | .error e => some e | .ok _ => none) = some .unusedField := by decide
theorem test_illegal_E23 : (match decode 0x00000131#32 with | .error e => some e | .ok _ => none) = some .unusedField := by decide
theorem test_illegal_E24 : (match decode 0x00011010#32 with | .error e => some e | .ok _ => none) = some .unusedField := by decide
theorem test_illegal_E25 : (match decode 0x00018011#32 with | .error e => some e | .ok _ => none) = some .reservedBit := by decide

/-! ### One step, the spec's own results -/

theorem test_nop_E1 : after State.reset 0x00000000 (fun s => s.statusWord) = some 0x00000000#32 := by decide
theorem test_illegal_step_E8 : after State.reset 0x000000FF (fun s => s.statusWord) = some 0x00FF0308#32 := by decide
theorem test_config_R202 : after State.reset 0x0100C301 (fun s => (s.cfgrWord, s.statusWord)) = some (0x00100C03#32, 0x00010002#32) := by decide
theorem test_config_keySize_E13 : after State.reset 0x1000C301 (fun s => s.statusWord) = some 0x00010108#32 := by decide
theorem test_setup_V8 : after cfgd16 0x00000002 (fun s => (s.statusWord, s.sTable.length)) = some (0x00020004#32, 4) := by decide +kernel
/-- The trace of R206: A and B of RC5-8/1/0 after the first two iterations. -/
theorem test_mixing_trace : (let m := mixLoop (w := 8) 4 1 1 { s := generateS 0xB7#8 0x9F#8 4, l := generateL 8 1 [], i := 0, j := 0, a := 0, b := 0 }; (m.a, m.b, (mixStep 4 1 m).a, (mixStep 4 1 m).b)) = (0xBD#8, 0xB7#8, 0x56#8, 0x98#8) := by decide
theorem test_generateL_w24 : generateL 24 2 [1#8, 2#8, 3#8, 4#8] = [0x030201#24, 0x000004#24] := by decide
theorem test_keySchedule_RC5_8_1_0 : after (cfgdWith .w8 0 0 0) 0x00000002 (fun s => s.sTable) = some [0x86#128, 0xD5#128, 0x8E#128, 0x81#128] := by decide +kernel
theorem test_setup_unconfigured_E4 : after State.reset 0x00000002 (fun s => s.statusWord) = some 0x00020508#32 := by decide +kernel
theorem test_rds_last : after ready8 0x00030132 (fun s => (s.x.get 1).toNat) = some 0x81 := by decide
theorem test_rds_index : after ready8 0x00040132 (fun s => s.statusWord) = some 0x0032070C#32 := by decide
theorem test_encode_V8 : after ready16 0x00000003 (fun s => s.mem.readBytes doutBase 4) = some (some [0xC4#8, 0x74#8, 0x35#8, 0xF4#8]) := by decide +kernel
theorem test_decode_inverts_V8 : after { ready16 with mem := [(0x20, 0xC4#8), (0x21, 0x74#8), (0x22, 0x35#8), (0x23, 0xF4#8)] } 0x00000004 (fun s => s.mem.readBytes doutBase 4) = some (some [0xFF#8, 0xFF#8, 0xFF#8, 0xFF#8]) := by decide +kernel
theorem test_encode_length_E27 : after { ready16 with dlen := 7#6 } 0x00000003 (fun s => s.statusWord) = some 0x0003020C#32 := by decide
theorem test_decode_notReady : after (cfgdWith .w32 0 0 0) 0x00000004 (fun s => s.statusWord) = some 0x0004040A#32 := by decide
theorem test_zero_R140 : after (cfgdWith .w24 0 0 0x123456) 0x00000310 (fun s => (s.x.get 3).toNat) = some 0 := by decide
theorem test_ldi_R141 : after (cfgdWith .w8 0 0 0) 0x01FF0111 (fun s => (s.x.get 1).toNat) = some 0xFF := by decide
theorem test_ldp_R142 : after (cfgdWith .w24 0 0 0) 0x00000012 (fun s => (s.x.get 0).toNat) = some 0xB7E151 := by decide
theorem test_ldq_R143 : after (cfgdWith .w80 0 0 0) 0x00000713 (fun s => (s.x.get 7).toNat) = some 0x9E3779B97F4A7C15F39D := by decide
theorem test_add_R144 : after (cfgdWith .w24 0xFFFFFF 1 5) 0x00021320 (fun s => (s.x.get 3).toNat) = some 0 := by decide
theorem test_add_unconfigured_E5 : after State.reset 0x00032120 (fun s => s.statusWord) = some 0x00200508#32 := by decide
theorem test_sub_R145 : after (cfgdWith .w80 0 1 5) 0x00021321 (fun s => (s.x.get 3).toNat) = some 0xFFFFFFFFFFFFFFFFFFFF := by decide
theorem test_xor_R146 : after (cfgdWith .w16 0x1234 0xFFFF 0) 0x00021022 (fun s => (s.x.get 0).toNat) = some 0xEDCB := by decide
theorem test_or_R147 : after (cfgdWith .w8 0xF0 0x0F 0) 0x00021423 (fun s => (s.x.get 4).toNat) = some 0xFF := by decide
theorem test_rol_R148 : after (cfgdWith .w24 0x800001 25 0) 0x00021324 (fun s => (s.x.get 3).toNat) = some 0x000003 := by decide
theorem test_rol_w80_low32 : after (cfgdWith .w80 1 0x300000000 0) 0x00021324 (fun s => (s.x.get 3).toNat) = some 1 := by decide
theorem test_ror_R149 : after (cfgdWith .w80 1 0x100000001 0) 0x00021325 (fun s => (s.x.get 3).toNat) = some 0x80000000000000000000 := by decide
theorem test_roli_R152 : after (cfgdWith .w32 0x12345678 0 0) 0x00241226 (fun s => (s.x.get 2).toNat) = some 0x23456781 := by decide
theorem test_roli_w8_by8 : after (cfgdWith .w8 0xA5 0 0) 0x00081226 (fun s => (s.x.get 2).toNat) = some 0xA5 := by decide
theorem test_rori_R153 : after (cfgdWith .w8 1 0 0) 0x00091127 (fun s => (s.x.get 1).toNat) = some 0x80 := by decide
theorem test_low32_R154 : after (cfgdWith .w64 0x1122334455667788 0 0) 0x00001228 (fun s => (s.x.get 2).toNat) = some 0x55667788 := by decide
theorem test_wld_w24 : after (cfgdWithDin .w24 0 0 0) 0x00000330 (fun s => (s.x.get 3).toNat) = some 0x020100 := by decide
theorem test_wld_be_slot1_w24 : after (cfgdWithDin .w24 0 0 0) 0x00030330 (fun s => (s.x.get 3).toNat) = some 0x030405 := by decide
theorem test_wst_w24 : after (cfgdWith .w24 0xB7E151 0 0) 0x00001031 (fun s => s.mem) = some [(0x40, 0x51#8), (0x41, 0xE1#8), (0x42, 0xB7#8)] := by decide
theorem test_wst_be_slot1_w24 : after (cfgdWith .w24 0xB7E151 0 0) 0x00031031 (fun s => s.mem) = some [(0x43, 0xB7#8), (0x44, 0xE1#8), (0x45, 0x51#8)] := by decide
theorem test_wld_unwritten_faults : (match step ((cfgdWith .w24 0 0 0).withFetchWord 32 0x00000330) with | .fault f => some f | _ => none) = some .unwrittenInputByte := by decide

/-! The bus-level vectors of 95_test_vectors.md section 2.8. -/

theorem test_read_id : (nextOf (step { State.reset with events := [.read 0x000#12] })).map (fun s => s.replies) = some [0x52433501#32] := by decide
theorem test_read_param : (nextOf (step { State.reset with events := [.read 0x004#12] })).map (fun s => s.replies) = some [0x7F08FFFF#32] := by decide
theorem test_read_cmd : (nextOf (step { busy with events := [.read 0x008#12] })).map (fun s => s.replies) = some [0#32] := by decide
theorem test_read_status_busy : (nextOf (step { { busy with ovr := true } with events := [.read 0x00C#12] })).map (fun s => s.replies) = some [0x00000011#32] := by decide
theorem test_read_cfgr_unaligned : (nextOf (step { cfgd16 with events := [.read 0x011#12] })).map (fun s => s.replies) = some [0x00010101#32] := by decide
theorem test_read_din0 : (nextOf (step { (cfgdWithDin .w8 0 0 0) with events := [.read 0x020#12] })).map (fun s => s.replies) = some [0x03020100#32] := by decide
theorem test_write_dlen_busy : (nextOf (step { busy with events := [.write 0x014#12 8#32] })).map (fun s => (s.dlen, s.ovr)) = some (0#6, true) := by decide
theorem test_write_cmd_issues : (nextOf (step { State.reset with events := [.write 0x008#12 0x0100C301#32] })).map (fun s => s.pend) = some (some 0x0100C301#32) := by decide
theorem test_write_status_clears_ovr : (nextOf (step { { State.reset with ovr := true, err := true } with events := [.write 0x00C#12 0x10#32] })).map (fun s => (s.ovr, s.err)) = some (false, true) := by decide
theorem test_write_key0 : (nextOf (step { State.reset with events := [.write 0x100#12 0x03020100#32] })).map (fun s => s.mem) = some [(0x100, 0#8), (0x101, 1#8), (0x102, 2#8), (0x103, 3#8)] := by decide
theorem test_write_dout_ignored : (nextOf (step { ready8 with events := [.write 0x040#12 0xFFFFFFFF#32] })).map (fun s => s.mem) = some [(0x20, 0x00#8), (0x21, 0x01#8)] := by decide

/-! ### Witnesses: for every statement with hypotheses, a state and operands that meet them -/

theorem cfgd24_words : RegistersHoldWords (cfgdWith .w24 0xFFFFFF 1 5) := fun r => by revert r; decide
theorem reset_words : RegistersHoldWords State.reset := fun r => by revert r; decide

theorem reset_inv : State.reset.Inv := ⟨by decide, by decide, by decide, by decide, by decide, by decide,
  forall_mem_of_all (by decide), by decide, by decide, by decide⟩
/-- `ready8` with every byte of KEYBUF and DIN written, and an ENCODE to come. -/
def fullReady : State :=
  { ready8 with
    mem := ((List.range 32).map fun k => (dinBase + k, BitVec.ofNat 8 k)) ++
      (List.range 256).map fun k => (keyBase + k, BitVec.ofNat 8 k)
    events := commandAndWait .encode }
theorem fullReady_inv : fullReady.Inv := ⟨by decide +kernel, forall_mem_of_all (by decide +kernel), by decide,
  by decide, by decide, by decide, forall_mem_of_all (by decide), by decide, by decide, by decide⟩
theorem cfgd16_inv : cfgd16.Inv := ⟨by decide, by decide, by decide, by decide, by decide, by decide,
  forall_mem_of_all (by decide), by decide, by decide, by decide⟩
theorem ready8_inv : ready8.Inv := ⟨by decide, by decide, by decide, by decide, by decide, by decide,
  forall_mem_of_all (by decide), by decide, by decide, by decide⟩

theorem witness_DecodeOfEncodeIsTheCommand : (Instr.wld 5 3#16).wellFormed = true := by decide
theorem witness_EncodeOfDecodeIsTheWord : decode 0x00032120#32 = .ok (.add 1 2 3) := rfl
theorem witness_StepRunsTheDecodedCommand : busy.pend = some 0x0100C301#32 ∧ decode 0x0100C301#32 = .ok (.config 3 12 16) ∧ busy.events = [] := ⟨rfl, rfl, rfl⟩
theorem witness_StepRunsTheDecodedCommand_event : ({ busy with events := [.complete, .read 0#12] } : State).events = .complete :: [.read 0#12] := rfl
theorem witness_IllegalWordsCompleteWithIllegal : ({ State.reset with pend := some 5#32 } : State).pend = some 5#32 ∧ ∀ row ∈ opcodeTable, ¬ MatchesRow 5#32 row := ⟨rfl, by unfold MatchesRow; exact forall_mem_of_all (by decide)⟩
theorem witness_IllegalWordsCompleteWithIllegal_wsel7 : ∀ row ∈ opcodeTable, ¬ MatchesRow 0x00000701#32 row := by unfold MatchesRow; exact forall_mem_of_all (by decide)
theorem witness_IdleEngineKeepsAllState : State.reset.pend = none ∧ State.reset.events = [] := by decide
theorem witness_IdleEngineKeepsAllState_event : ({ State.reset with events := [.complete] } : State).pend = none ∧ ({ State.reset with events := [.complete] } : State).events = .complete :: [] := ⟨rfl, rfl⟩
theorem witness_EveryCompletionRecordsItsOutcome_success : ∃ s', complete 0x00000000#32 State.reset = .next s' ∧ s'.ecode = .ok := ⟨_, rfl, rfl⟩
theorem witness_EveryCompletionRecordsItsOutcome_error : ∃ s', complete 0x00000003#32 State.reset = .next s' ∧ s'.ecode ≠ .ok := ⟨_, rfl, by decide⟩
theorem witness_FailedCommandChangesOnlyStatus : ∃ s', complete 0x00040132#32 ready8 = .next s' ∧ s'.ecode ≠ .ok := ⟨_, rfl, by decide⟩
theorem witness_FailedCommandChangesOnlyStatus_illegal : ∃ s', complete 0x00000005#32 ready8 = .next s' ∧ s'.ecode ≠ .ok := ⟨_, rfl, by decide⟩
theorem witness_UnconfiguredCommandsFail : (Instr.add 1 2 3).wellFormed = true ∧ Instr.add 1 2 3 ≠ .nop ∧ State.reset.phase = .uncfg := by decide
theorem witness_UnconfiguredCommandsFail_config : ∀ wsel r b, Instr.add 1 2 3 ≠ .config wsel r b := by simp
theorem witness_PhaseChangesOnlyByConfigSetupOrReset_config : ∃ s', exec (.config 1 1 1) State.reset = .next s' ∧ s'.ecode = .ok := ⟨_, rfl, rfl⟩
theorem witness_PhaseChangesOnlyByConfigSetupOrReset_setup : ∃ s', exec .setup cfgd16 = .next s' ∧ s'.ecode = .ok := ⟨_, rfl, rfl⟩
theorem witness_PhaseChangesOnlyByConfigSetupOrReset_other : ∃ s', exec .encode cfgd16 = .next s' ∧ s'.ecode ≠ .ok := ⟨_, rfl, by decide⟩
theorem witness_PhaseChangesOnlyByConfigSetupOrReset_stepConfig : ∃ s', step busy = .next s' ∧ s'.phase ≠ busy.phase ∧ Completes busy (fun i => ∃ wsel r b, i = .config wsel r b) := ⟨_, rfl, by decide, Or.inl rfl, _, _, rfl, rfl, _, _, _, rfl⟩
theorem witness_PhaseChangesOnlyByConfigSetupOrReset_stepSetup : ∃ s', step { cfgd16 with pend := some 2#32 } = .next s' ∧ s'.phase ≠ cfgd16.phase ∧ Completes { cfgd16 with pend := some 2#32 } (fun i => i = .setup) := ⟨_, rfl, by decide, Or.inl rfl, _, _, rfl, rfl, rfl⟩
theorem witness_PhaseChangesOnlyByConfigSetupOrReset_stepReset : ∃ s', step { ready8 with events := [.reset] } = .next s' ∧ s'.phase ≠ ready8.phase ∧ NextIsReset { ready8 with events := [.reset] } := ⟨_, rfl, by decide, _, rfl⟩
theorem witness_OnlyConfigSetupOrResetChangeTheInstance : (∃ s', exec .encode ready8 = .next s') ∧ (∀ wsel r b, Instr.encode ≠ .config wsel r b) ∧ Instr.encode ≠ .setup := ⟨⟨_, rfl⟩, by simp, by simp⟩
theorem witness_OnlyConfigSetupOrResetChangeTheInstance_step : (∃ s', step { ready8 with events := [.read 0#12] } = .next s') ∧ (∀ f, ¬ Completes { ready8 with events := [.read 0#12] } f) ∧ ¬ NextIsReset { ready8 with events := [.read 0#12] } := ⟨⟨_, rfl⟩, by simp [Completes], by simp [NextIsReset]⟩
theorem witness_CommandsWriteNoBufferButDout : (∃ s', exec .encode ready8 = .next s') ∧ (0x5F < doutBase ∨ doutBase + blkBytes ≤ 0x60) := ⟨⟨_, rfl⟩, by decide⟩
theorem witness_CommandsWriteNoBufferButDout_noStore : (∃ s', exec .setup cfgd16 = .next s') ∧ Instr.setup ≠ .encode ∧ Instr.setup ≠ .decode ∧ ∀ rs1 imm, Instr.setup ≠ .wst rs1 imm := ⟨⟨_, rfl⟩, by simp, by simp, by simp⟩
theorem witness_RegistersChangeOnlyAtTheDestination : (∃ s', exec (.add 3 1 2) ready8 = .next s') ∧ (∀ wsel r b, Instr.add 3 1 2 ≠ .config wsel r b) ∧ (Instr.add 3 1 2).destination ≠ some 1 := ⟨⟨_, rfl⟩, by simp, by decide⟩
theorem witness_FaultsOnlyOnUnwrittenBytes_key : exec .setup { cfgd16 with mem := [] } = .fault .unwrittenKeyByte := rfl
theorem witness_FaultsOnlyOnUnwrittenBytes_input : exec .encode { ready8 with mem := [(0x20, 0#8)] } = .fault .unwrittenInputByte := rfl
theorem witness_FaultsOnlyOnUnwrittenBytes_slot : exec (.wld 5 1#16) { ready8 with mem := [(0x20, 0#8)] } = .fault .unwrittenInputByte := rfl
theorem witness_SetupComputesTheKeySchedule_fault : ({ cfgd16 with mem := [] } : State).phase ≠ .uncfg ∧ cfgd16.klen.toNat = cfgd16.b ∧ ∃ k, k < cfgd16.b ∧ ({ cfgd16 with mem := [] } : State).mem.read (keyBase + k) = none := ⟨by decide, by decide, 0, by decide, by decide⟩
theorem witness_BlockChecks_fault : ready8.phase = .ready ∧ ready8.dlen.toNat = 2 * ready8.u ∧ ∃ k, k < 2 * ready8.u ∧ ({ ready8 with mem := [(0x20, 0#8)] } : State).mem.read (dinBase + k) = none := ⟨by decide, by decide, 1, by decide, by decide⟩
theorem witness_WldLoadsASlot_fault : (cfgdWith .w24 0 0 0).phase ≠ .uncfg ∧ (3#16).toNat < 4 ∧ ∃ k, k < (cfgdWith .w24 0 0 0).u ∧ (cfgdWith .w24 0 0 0).mem.read (dinBase + (3#16).toNat % 2 * (cfgdWith .w24 0 0 0).u + k) = none := ⟨by decide, by decide, 0, by decide, by decide⟩
theorem witness_AssembledLinesAreLegalCommands : assemble (.wst true 7 1) = some (.wst 7 3#16) ∧ assemble (.wst true 8 1) = none ∧ assemble (.ldi 0 65536) = none := by decide
theorem witness_WrittenBuffersNeverFault : fullReady.Inv ∧ (∀ k, k < blkBytes → fullReady.mem.read (dinBase + k) ≠ none) ∧ (∀ k, k < keybufBytes → fullReady.mem.read (keyBase + k) ≠ none) ∧ Event.reset ∉ fullReady.events := ⟨fullReady_inv, by decide +kernel, by decide +kernel, by decide⟩
theorem witness_PendingCommandCompletes : busy.pend = some 0x0100C301#32 ∧ Event.reset ∉ busy.events := by decide
theorem witness_ConfigCreatesAnInstance_badParam_zero : (3#3) ≠ 7#3 ∧ ((0#8).toNat = 0 ∨ 255 < (0#8).toNat) := by decide
theorem witness_ConfigCreatesAnInstance_badParam_above_rmax : (State.resetFor { rmax := 12#8, keyBound := 255#8 }).params.rmax.toNat < (13#8).toNat := by decide
theorem witness_ConfigCreatesAnInstance_keySize : (3#3) ≠ 7#3 ∧ 1 ≤ (255#8).toNat ∧ (255#8).toNat ≤ State.reset.params.rmax.toNat ∧ State.reset.params.keyBound.toNat < (256#12).toNat := by decide
theorem witness_ConfigCreatesAnInstance_success : (6#3) ≠ 7#3 ∧ 1 ≤ (255#8).toNat ∧ (255#8).toNat ≤ State.reset.params.rmax.toNat ∧ (255#12).toNat ≤ State.reset.params.keyBound.toNat := by decide
theorem witness_SetupComputesTheKeySchedule_uncfg : State.reset.phase = .uncfg := by decide
theorem witness_SetupComputesTheKeySchedule_keySize : ({ cfgd16 with klen := 2#9 } : State).phase ≠ .uncfg ∧ ({ cfgd16 with klen := 2#9 } : State).klen.toNat ≠ ({ cfgd16 with klen := 2#9 } : State).b := by decide
theorem witness_SetupComputesTheKeySchedule_success : cfgd16.phase ≠ .uncfg ∧ cfgd16.klen.toNat = cfgd16.b ∧ ∀ k, k < cfgd16.b → cfgd16.mem.read (keyBase + k) = some 0xFF#8 := by decide
theorem witness_SetupComputesTheKeySchedule_emptyKey : (cfgdWith .w24 0 0 0).klen.toNat = (cfgdWith .w24 0 0 0).b ∧ (cfgdWith .w24 0 0 0).b = 0 := by decide
theorem witness_RdsReadsOneRoundKey_checks : cfgd16.phase = .cfgd ∧ State.reset.phase = .uncfg := by decide
theorem witness_RdsReadsOneRoundKey_index : ready8.phase = .ready ∧ ready8.t ≤ (4#16).toNat := by decide
theorem witness_RdsReadsOneRoundKey_success : ready8.phase = .ready ∧ (3#16).toNat < ready8.t ∧ 0x81 < 2 ^ ready8.w ∧ ready8.sTable[(3#16).toNat]? = some (BitVec.ofNat 128 0x81) := by decide
theorem witness_KeyScheduleDependsOnlyOnTheKey : ∃ s1' s2', exec .setup cfgd16 = .next s1' ∧ exec .setup { cfgd16 with dlen := 9#6 } = .next s2' ∧ s1'.ecode = .ok ∧ s2'.ecode = .ok := ⟨_, _, rfl, rfl, rfl, rfl⟩
theorem witness_ConfigInvalidatesTheRoundKeys : ∃ s', exec (.config 1 16 8) ready8 = .next s' ∧ s'.ecode = .ok := ⟨_, rfl, rfl⟩
theorem witness_WordCommand_configured : RegistersHoldWords (cfgdWith .w24 0xFFFFFF 1 5) ∧ (cfgdWith .w24 0xFFFFFF 1 5).phase ≠ .uncfg := ⟨cfgd24_words, by decide⟩
theorem witness_WordCommand_uncfg : RegistersHoldWords State.reset ∧ State.reset.phase = .uncfg := ⟨reset_words, by decide⟩
theorem witness_WldLoadsASlot_checks : 4 ≤ (4#16).toNat ∧ (3#16).toNat < 4 ∧ State.reset.phase = .uncfg := by decide
theorem witness_WldLoadsASlot_success : (3#16).toNat < 4 ∧ (cfgdWithDin .w128 0 0 0).phase ≠ .uncfg ∧ ∀ k, k < (cfgdWithDin .w128 0 0 0).u → (cfgdWithDin .w128 0 0 0).mem.read (dinBase + (3#16).toNat % 2 * (cfgdWithDin .w128 0 0 0).u + k) = some (BitVec.ofNat 8 (16 + k)) := by decide
theorem witness_WstStoresASlot_success : (3#16).toNat < 4 ∧ (cfgdWith .w24 0xFFFFFF 1 5).phase ≠ .uncfg ∧ RegistersHoldWords (cfgdWith .w24 0xFFFFFF 1 5) := ⟨by decide, by decide, cfgd24_words⟩
theorem witness_BlockChecks : State.reset.phase = .uncfg ∧ cfgd16.phase = .cfgd ∧ ({ ready8 with dlen := 3#6 } : State).phase = .ready ∧ ({ ready8 with dlen := 3#6 } : State).dlen.toNat ≠ 2 * ({ ready8 with dlen := 3#6 } : State).u := by decide
theorem witness_BlockResult : ready8.phase = .ready ∧ ready8.dlen.toNat = 2 * ready8.u ∧ (∀ k, k < 2 * ready8.u → ready8.mem.read (dinBase + k) = some (BitVec.ofNat 8 k)) ∧ ∀ n, n < ready8.t → ready8.sTable[n]? = some (BitVec.ofNat 128 ([0x86, 0xD5, 0x8E, 0x81].getD n 0)) ∧ [0x86, 0xD5, 0x8E, 0x81].getD n 0 < 2 ^ ready8.w := by decide
theorem witness_DecodeCommandUndoesEncodeCommand : ∃ s1 s2 : State, exec .encode ready8 = .next s1 ∧ s1.ecode = .ok ∧ s2 = { s1 with mem := (s1.mem.write 0x20 (s1.mem.read 0x40).get!).write 0x21 (s1.mem.read 0x41).get! } ∧ ∀ k, k < 2 * ready8.u → s2.mem.read (dinBase + k) = s1.mem.read (doutBase + k) := ⟨_, _, rfl, rfl, rfl, by decide⟩
theorem witness_DecodeCommandUndoesEncodeCommand_reversed : ∃ s1 s2 : State, exec .decode ready8 = .next s1 ∧ s1.ecode = .ok ∧ s2 = { s1 with mem := (s1.mem.write 0x20 (s1.mem.read 0x40).get!).write 0x21 (s1.mem.read 0x41).get! } ∧ ∀ k, k < 2 * ready8.u → s2.mem.read (dinBase + k) = s1.mem.read (doutBase + k) := ⟨_, _, rfl, rfl, rfl, by decide⟩
theorem witness_BlocksAreIndependent : ∃ s', exec .encode ready8 = .next s' ∧ s'.ecode = .ok ∧ ({ ready8 with klen := 7#9 } : State).mem = ready8.mem := ⟨_, rfl, rfl, rfl⟩
theorem witness_RegisterReadsGiveTheirFields_reserved_01C : reservedOffset (4 * ((0x01C#12).toNat / 4)) := by unfold reservedOffset; decide
theorem witness_RegisterReadsGiveTheirFields_reserved_060 : reservedOffset (4 * ((0x060#12).toNat / 4)) := by unfold reservedOffset; decide
theorem witness_RegisterReadsGiveTheirFields_reserved_0FC : reservedOffset (4 * ((0x0FC#12).toNat / 4)) := by unfold reservedOffset; decide
theorem witness_RegisterReadsGiveTheirFields_reserved_200 : reservedOffset (4 * ((0x200#12).toNat / 4)) := by unfold reservedOffset; decide
theorem witness_RegisterReadsGiveTheirFields_reserved_FFC : reservedOffset (4 * ((0xFFC#12).toNat / 4)) := by unfold reservedOffset; decide
theorem witness_BufferReadsReturnTheirBytes_din7 : ∀ k, k < 4 → (cfgdWithDin .w8 0 0 0).mem.read (0x020 + 4 * 7 + k) = some (BitVec.ofNat 8 (28 + k)) := by decide
theorem witness_BufferReadsReturnTheirBytes_key63 : ∀ k, k < 4 → ({ State.reset with mem := [(0x1FC, 1#8), (0x1FD, 2#8), (0x1FE, 3#8), (0x1FF, 4#8)] } : State).mem.read (0x100 + 4 * 63 + k) = some (BitVec.ofNat 8 (1 + k)) := by decide
theorem witness_BufferReadsReturnTheirBytes_dout7 : State.reset.busy = false ∧ ∀ k, k < 4 → ({ State.reset with mem := [(0x5C, 1#8), (0x5D, 2#8), (0x5E, 3#8), (0x5F, 4#8)] } : State).mem.read (0x040 + 4 * 7 + k) = some (BitVec.ofNat 8 (1 + k)) := by decide
theorem witness_BufferReadsReturnTheirBytes_partlyWritten : ∃ s', exec .encode ready8 = .next s' ∧ s'.busy = false ∧ s'.mem.read 0x041 ≠ none ∧ s'.mem.read 0x042 = none ∧ Lanes s' (0x040 + 4 * 0) fun k => (s'.mem.read (0x040 + k)).getD (Config.freeByte (s'.draws + k)) := ⟨_, rfl, rfl, by decide, by decide, fun k hk => by match k, hk with | 0, _ => exact Or.inl rfl | 1, _ => exact Or.inl rfl | 2, _ => exact Or.inr ⟨rfl, rfl⟩ | 3, _ => exact Or.inr ⟨rfl, rfl⟩⟩
theorem witness_BufferReadsReturnTheirBytes_lanes : Lanes (cfgdWithDin .w8 0 0 0) (0x020 + 4 * 7) fun k => BitVec.ofNat 8 (28 + k) := fun k hk => Or.inl (witness_BufferReadsReturnTheirBytes_din7 k hk)
theorem witness_UnspecifiedReadsAreFree : busy.busy = true ∧ ∀ k, k < 4 → State.reset.mem.read (0x040 + 4 * 7 + k) = none := by decide
theorem witness_UnspecifiedReadsAreFree_key63 : ∀ k, k < 4 → State.reset.mem.read (0x100 + 4 * 63 + k) = none := by decide
theorem witness_WritesWhileBusyAreDropped : busy.busy = true := by decide
theorem witness_RegisterWritesWhenIdle : State.reset.busy = false ∧ (0x040 ≤ 4 * ((0x05F#12).toNat / 4) ∧ 4 * ((0x05F#12).toNat / 4) ≤ 0x05C) := by decide
theorem witness_BufferWritesStoreTheirBytes : State.reset.busy = false ∧ ((0x100 = 0x020 ∧ 63 < 8) ∨ (0x100 = 0x100 ∧ 63 < 64)) := by decide
theorem witness_WrittenRegistersReadBack_key63 : State.reset.busy = false ∧ ({ State.reset with events := [.write 0x1FF#12 5#32, .read 0x1FF#12] } : State).events = .write 0x1FF#12 5#32 :: .read 0x1FF#12 :: [] := ⟨rfl, rfl⟩
theorem witness_WrittenRegistersReadBack_din7 : ({ State.reset with events := [.write 0x03F#12 5#32, .read 0x03F#12] } : State).events = .write 0x03F#12 5#32 :: .read 0x03F#12 :: [] ∧ 0x020 ≤ (0x03F#12).toNat ∧ (0x03F#12).toNat < 0x040 := ⟨rfl, by decide, by decide⟩
theorem witness_WrittenRegistersReadBack_dlen : State.reset.busy = false ∧ ({ State.reset with events := [.write 0x014#12 0x7F#32, .read 0x014#12] } : State).events = .write 0x014#12 0x7F#32 :: .read 0x014#12 :: [] := ⟨rfl, rfl⟩
theorem witness_WrittenRegistersReadBack_klen : State.reset.busy = false ∧ ({ State.reset with events := [.write 0x018#12 0x3FF#32, .read 0x018#12] } : State).events = .write 0x018#12 0x3FF#32 :: .read 0x018#12 :: [] := ⟨rfl, rfl⟩
theorem witness_ResetInputRestoresTheResetState : ({ busy with events := [.reset] } : State).events = .reset :: [] := rfl
theorem witness_ResetMeetsTheInvariant : 1 ≤ ({ rmax := 1#8, keyBound := 0#8 } : Params).rmax.toNat := by decide
theorem witness_RunOutcomeIsWhatTheHostCanRead_ended : ({ ready8 with events := [.complete, .reset] } : State).ended = true := by decide
theorem witness_RunOutcomeIsWhatTheHostCanRead_busy : busy.ended = false ∧ ({ ready8 with events := [.reset, .read 0#12] } : State).ended = false := by decide
theorem witness_EndedRunKeepsItsOutcome : ({ ready8 with events := [.complete] } : State).ended = true ∧ Event.reset ∉ ({ ready8 with events := [.complete] } : State).events := by decide
theorem witness_EveryStepKeepsTheInvariant : ∃ s', step { ready8 with events := [.read 0#12] } = .next s' := ⟨_, rfl⟩
theorem witness_EveryStepKeepsTheInvariant_encode : State.Inv { ready8 with pend := some 0x00000003#32 } ∧ ∃ s', step { ready8 with pend := some 0x00000003#32 } = .next s' := ⟨⟨by decide, by decide, by decide, by decide, by decide, by decide,
  forall_mem_of_all (by decide), by decide, by decide, by decide⟩, _, rfl⟩

end Sys2Proof.Tests
end

section
/-! PROOFS. The frame of a step: which part of the state a bus access, an error completion and a successful completion
leave unchanged, and which steps can change the rest. -/

namespace Sys2Proof.Machine
open Sys2Proof.Reference

/-! ### The register an offset names -/

theorem alignOffset_mod_four (a : BitVec 12) : alignOffset a % 4 = 0 := Nat.mul_mod_right 4 _

theorem busReg_eq_din_iff (a : BitVec 12) (m : Nat) : busReg a = .din m ↔ alignOffset a = 0x020 + 4 * m ∧ m < 8 := by
  have ho := alignOffset_mod_four a
  simp only [busReg]
  split_ifs <;> simp only [BusReg.din.injEq, false_iff] <;> omega

theorem busReg_eq_dout_iff (a : BitVec 12) (m : Nat) : busReg a = .dout m ↔ alignOffset a = 0x040 + 4 * m ∧ m < 8 := by
  have ho := alignOffset_mod_four a
  simp only [busReg]
  split_ifs <;> simp only [BusReg.dout.injEq, false_iff] <;> omega

theorem busReg_eq_key_iff (a : BitVec 12) (m : Nat) : busReg a = .key m ↔ alignOffset a = 0x100 + 4 * m ∧ m < 64 := by
  have ho := alignOffset_mod_four a
  simp only [busReg]
  split_ifs <;> simp only [BusReg.key.injEq, false_iff] <;> omega

/-! ### The internal part of the state -/

/-- The part of the state that no bus access writes: the build, the configuration, the phase, the registers, S and L. -/
structure Internal where
  params : Params
  cfgWsel : Width
  cfgR : BitVec 8
  cfgB : BitVec 12
  phase : Phase
  x : Vector Cell 8
  sTable : List Cell
  lTable : List Cell

def State.internal (s : State) : Internal :=
  { params := s.params, cfgWsel := s.cfgWsel, cfgR := s.cfgR, cfgB := s.cfgB, phase := s.phase, x := s.x,
    sTable := s.sTable, lTable := s.lTable }

@[simp] theorem State.popped_events (s : State) : s.popped.events = s.events.tail := rfl
@[simp] theorem State.popped_replies (s : State) : s.popped.replies = s.replies := rfl

@[simp] theorem State.internal_popped (s : State) : s.popped.internal = s.internal := rfl
@[simp] theorem State.internal_finish (s : State) (op : BitVec 8) : (s.finish op).internal = s.internal := rfl
@[simp] theorem State.internal_raise (s : State) (code : ErrCode) (op : BitVec 8) :
    (s.raise code op).internal = s.internal := rfl
@[simp] theorem State.internal_setDout (s : State) (n : Nat) (bytes : List Byte) :
    (s.setDout n bytes).internal = s.internal := rfl
@[simp] theorem State.internal_busRead (s : State) (a : BitVec 12) : (s.busRead a).internal = s.internal := rfl

@[simp] theorem State.internal_writeReg (s : State) (v : BitVec 32) (reg : BusReg) :
    (s.writeReg v reg).internal = s.internal := by
  cases reg <;> rfl

/-- No bus write, dropped or not, reaches the internal part (R63, R66). -/
@[simp] theorem State.internal_busWrite (s : State) (a : BitVec 12) (v : BitVec 32) :
    (s.busWrite a v).internal = s.internal := by
  unfold State.busWrite
  split
  · rfl
  · exact s.internal_writeReg v (busReg a)

/-! ### Which step it was -/

/-- `StepKind s s'`: the six ways a step from `s` can go on to `s'`, each with what the next event was where that
matters. -/
inductive StepKind (s : State) : State → Prop where
  | idle : StepKind s s.popped
  | illegal (op : BitVec 8) : StepKind s (s.popped.raise .illegal op)
  | command (i : Instr) (s' : State) (hc : Completes s (· = i)) (hx : exec i s.popped = .next s') : StepKind s s'
  | read (a : BitVec 12) : StepKind s (s.popped.busRead a)
  | write (a : BitVec 12) (v : BitVec 32) : StepKind s (s.popped.busWrite a v)
  | reset (hr : NextIsReset s) : StepKind s s.popped.resetInput

theorem popped_of_events {s : State} {ev : Event} {rest : List Event} (h : s.events = ev :: rest) :
    ({ s with events := rest } : State) = s.popped := by
  simp [State.popped, h]

theorem popped_of_no_events {s : State} (h : s.events = []) : s.popped = s := by
  cases s
  simp_all [State.popped]

/-- The engine's turn, on the list where it comes next. -/
theorem stepKind_of_engineTurn {s s' : State} (he : s.events = [] ∨ ∃ rest, s.events = .complete :: rest)
    (h : engineTurn s.popped = .next s') : StepKind s s' := by
  rcases engineTurn_next h with ⟨-, rfl⟩ | ⟨c, e, -, -, rfl⟩ | ⟨c, i, hp, hd, hx⟩
  · exact .idle
  · exact .illegal _
  · exact .command i s' ⟨he, c, i, hp, hd, rfl⟩ hx

/-- Every step that goes on is one of the six kinds. -/
theorem step_kind {s s' : State} (h : step s = .next s') : StepKind s s' := by
  cases he : s.events with
  | nil =>
    exact stepKind_of_engineTurn (.inl he) (by rw [popped_of_no_events he, ← step_engine he, h])
  | cons ev rest =>
    have hpop := popped_of_events he
    cases ev with
    | complete =>
      rw [step_complete he, hpop] at h
      exact stepKind_of_engineTurn (.inr ⟨rest, he⟩) h
    | read a =>
      rw [step_read he, hpop] at h
      cases h
      exact .read a
    | write a v =>
      rw [step_write he, hpop] at h
      cases h
      exact .write a v
    | reset =>
      rw [step_reset he, hpop] at h
      cases h
      exact .reset ⟨rest, he⟩

/-- The internal part changes only where a command completes or the reset input comes. -/
theorem step_internal {s s' : State} (h : step s = .next s') :
    s'.internal = s.internal ∨ (∃ i, Completes s (· = i) ∧ exec i s.popped = .next s') ∨
      (NextIsReset s ∧ s' = s.popped.resetInput) := by
  cases step_kind h with
  | idle => exact .inl s.internal_popped
  | illegal op => exact .inl (by simp)
  | command i _ hc hx => exact .inr (.inl ⟨i, hc, hx⟩)
  | read a => exact .inl (by simp)
  | write a v => exact .inl (by simp)
  | reset hr => exact .inr (.inr ⟨hr, rfl⟩)

end Sys2Proof.Machine
end

section
/-! PROOFS. The invariant holds right after reset and every step keeps it (R8, R21, R29, R31, R32, R61). -/

namespace Sys2Proof.Machine

/-! ### The memory's part -/

/-- The memory's part of the invariant: canonical, and bytes of the buffers only. -/
def Memory.Fits (m : Memory) : Prop := m.wf = true ∧ ∀ e ∈ m, isBufferByte e.1 = true

theorem Memory.Fits.writeBytes {m : Memory} {a : Nat} {bs : List Byte} (h : m.Fits)
    (ha : ∀ n, a ≤ n → n < a + bs.length → isBufferByte n = true) : (m.writeBytes a bs).Fits := by
  refine ⟨m.writeBytes_wf a bs h.1, fun e he => ?_⟩
  rcases m.mem_writeBytes a bs he with hm | ⟨hl, hu⟩
  · exact h.2 e hm
  · exact ha e.1 hl hu

theorem Memory.Fits.writeReg {s : State} {a : BitVec 12} {v : BitVec 32} (h : s.mem.Fits) :
    (s.writeReg v (busReg a)).mem.Fits := by
  cases hb : busReg a with
  | din m =>
    have hm := ((busReg_eq_din_iff a m).mp hb).2
    exact h.writeBytes fun n hl hu => by
      simp only [unpackBytes, dinBase, List.length_cons, List.length_nil] at hl hu
      rw [isBufferByte_iff]; omega
  | key m =>
    have hm := ((busReg_eq_key_iff a m).mp hb).2
    exact h.writeBytes fun n hl hu => by
      simp only [unpackBytes, keyBase, List.length_cons, List.length_nil] at hl hu
      rw [isBufferByte_iff]; omega
  | _ => exact h

theorem Memory.Fits.busWrite {s : State} (a : BitVec 12) (v : BitVec 32) (h : s.mem.Fits) :
    (s.busWrite a v).mem.Fits := by
  unfold State.busWrite
  split
  · exact h
  · exact h.writeReg

/-! ### The invariant from its parts -/

theorem State.Inv.memFits {s : State} (h : s.Inv) : s.mem.Fits := ⟨h.memCanonical, h.memBuffers⟩

/-- The invariant speaks of the memory and of the internal part only. -/
theorem State.Inv.of_internal_eq {s s' : State} (h : s.Inv) (hi : s'.internal = s.internal) (hm : s'.mem.Fits) :
    s'.Inv := by
  simp only [State.internal, Internal.mk.injEq] at hi
  obtain ⟨hparams, hwsel, hr, hb, hphase, hx, hS, hL⟩ := hi
  constructor
  case memCanonical => exact hm.1
  case memBuffers => exact hm.2
  case rmaxPositive => simpa only [hparams] using h.rmaxPositive
  case registersHoldWords => simpa only [State.w, hwsel, hx] using h.registersHoldWords
  case unconfigured => simpa only [hphase, hwsel, hr, hb, hx] using h.unconfigured
  case configured => simpa only [State.r, State.b, hphase, hr, hb, hparams] using h.configured
  case roundKeysAreWords => simpa only [State.w, hwsel, hS] using h.roundKeysAreWords
  case roundKeysReady => simpa only [State.t, State.r, hphase, hr, hS] using h.roundKeysReady
  case roundKeysUndefined => simpa only [hphase, hS] using h.roundKeysUndefined
  case workingTableUndefined => simpa only [hL] using h.workingTableUndefined

theorem replicate_zero_get (r : Reg) : (Vector.replicate 8 0#128 : Vector Cell 8).get r = 0#128 := by
  simp [Vector.get_eq_getElem]

/-- The state right after reset meets the invariant, for every legal build (R8, R40). -/
theorem inv_resetFor {p : Params} (hp : 1 ≤ p.rmax.toNat) : (State.resetFor p).Inv where
  memCanonical := reset_mem_wf p
  memBuffers := by simp [State.resetFor]
  rmaxPositive := hp
  registersHoldWords r := by
    rw [show (State.resetFor p).x = Vector.replicate 8 0#128 from rfl, replicate_zero_get]
    exact Nat.two_pow_pos _
  unconfigured _ := ⟨rfl, rfl, rfl, rfl⟩
  configured h := absurd rfl h
  roundKeysAreWords := by simp [State.resetFor]
  roundKeysReady h := by cases h
  roundKeysUndefined _ := rfl
  workingTableUndefined := rfl

/-! ### The commands' effects keep it -/

theorem State.Inv.configure {s : State} (h : s.Inv) (width : Width) {r : BitVec 8} {b : BitVec 12} (hr : r.toNat ≠ 0)
    (hR : r.toNat ≤ s.params.rmax.toNat) (hb : b.toNat ≤ s.params.keyBound.toNat) : (s.configure width r b).Inv where
  memCanonical := h.memCanonical
  memBuffers := h.memBuffers
  rmaxPositive := h.rmaxPositive
  registersHoldWords k := by
    rw [State.configure_x, replicate_zero_get]
    exact Nat.two_pow_pos _
  unconfigured hp := by cases hp
  configured _ := ⟨Nat.one_le_iff_ne_zero.mpr hr, hR, hb⟩
  roundKeysAreWords := by simp
  roundKeysReady hp := by cases hp
  roundKeysUndefined _ := rfl
  workingTableUndefined := h.workingTableUndefined

theorem State.Inv.install {s : State} (h : s.Inv) (hp : s.phase ≠ .uncfg) {table : List (Word s.w)}
    (hlen : table.length = s.t) : (s.install table).Inv where
  memCanonical := h.memCanonical
  memBuffers := h.memBuffers
  rmaxPositive := h.rmaxPositive
  registersHoldWords := h.registersHoldWords
  unconfigured hu := by cases hu
  configured _ := h.configured hp
  roundKeysAreWords k hk := by
    obtain ⟨v, -, rfl⟩ := List.mem_map.mp (State.install_sTable s table ▸ hk)
    exact toCell_toNat_lt v
  roundKeysReady _ := by simp [hlen]
  roundKeysUndefined hu := absurd rfl hu
  workingTableUndefined := rfl

theorem State.Inv.setWord {s : State} (h : s.Inv) (hp : s.phase ≠ .uncfg) (rd : Reg) (v : Word s.w) :
    (s.setWord rd v).Inv where
  memCanonical := h.memCanonical
  memBuffers := h.memBuffers
  rmaxPositive := h.rmaxPositive
  registersHoldWords r := by
    rw [setWord_get, State.setWord_w]
    split
    · exact toCell_toNat_lt v
    · exact h.registersHoldWords r
  unconfigured hu := absurd hu hp
  configured := h.configured
  roundKeysAreWords := h.roundKeysAreWords
  roundKeysReady := h.roundKeysReady
  roundKeysUndefined := h.roundKeysUndefined
  workingTableUndefined := h.workingTableUndefined

theorem State.Inv.setDout {s : State} (h : s.Inv) {n : Nat} {bytes : List Byte} (hn : n + bytes.length ≤ 2 * s.u) :
    (s.setDout n bytes).Inv := by
  refine h.of_internal_eq (by simp) (h.memFits.writeBytes fun k hl hu => ?_)
  have hu16 := s.u_le
  simp only [doutBase] at hl hu
  rw [isBufferByte_iff]
  omega

theorem Effect.inv {i : Instr} {s q : State} (he : Effect i s q) (h : s.Inv) : q.Inv := by
  cases he with
  | nop => exact h
  | config wsel r b _ width hw hr hR hb => exact h.configure width hr hR hb
  | setup _ key hp hl hk => exact h.install hp (length_keySchedule ..)
  | word _ _ rd v hp hd => exact h.setWord hp rd v
  | store _ _ n bytes hp hn hi => exact h.setDout hn

/-- Every command that completes keeps the invariant. -/
theorem exec_inv {i : Instr} {s s' : State} (h : s.Inv) (hx : exec i s = .next s') : s'.Inv := by
  rcases exec_next hx with ⟨code, -, rfl⟩ | ⟨q, he, rfl⟩
  · exact h.of_internal_eq rfl h.memFits
  · have hq := he.inv h
    exact hq.of_internal_eq rfl hq.memFits

/-- Settles O57: every field of the invariant, read off the reset state. -/
theorem resetMeetsTheInvariant : Obligations.ResetMeetsTheInvariant :=
  ⟨fun _ hp => inv_resetFor hp, inv_resetFor (by decide)⟩

/-- Settles O58, by the kind of the step: the reset input gives the base case again, a command keeps the invariant by its
effect, and every other step leaves the internal part and the memory as they are, but for a bus write to DIN or KEYBUF. -/
theorem everyStepKeepsTheInvariant : Obligations.EveryStepKeepsTheInvariant := by
  intro s s' h hs
  have hpop : s.popped.Inv := h.of_internal_eq rfl h.memFits
  cases step_kind hs with
  | idle => exact hpop
  | illegal op => exact hpop.of_internal_eq rfl hpop.memFits
  | command i _ hc hx => exact exec_inv hpop hx
  | read a => exact hpop.of_internal_eq rfl hpop.memFits
  | write a v => exact hpop.of_internal_eq (by simp) (hpop.memFits.busWrite a v)
  | reset hr =>
    have hreset := inv_resetFor h.rmaxPositive
    exact hreset.of_internal_eq rfl hreset.memFits

end Sys2Proof.Machine
end

section
/-! PROOFS. What a command leaves unchanged, by its effect, and what a step does (R9, R21, R27, R29 to R34, R138). -/

namespace Sys2Proof.Machine
open Sys2Proof.Reference

variable {i : Instr} {s s' q : State}

/-! ### The frame of an effect -/

theorem ne_config_of_destination {rd : Reg} (hd : i.destination = some rd) (wsel : BitVec 3) (r : BitVec 8)
    (b : BitVec 12) : i ≠ .config wsel r b := by
  rintro rfl
  cases hd

theorem ne_setup_of_destination {rd : Reg} (hd : i.destination = some rd) : i ≠ .setup := by
  rintro rfl
  cases hd

/-- The phase after an effect: CONFIG's, SETUP's, or the old one (R27). -/
theorem Effect.phase (he : Effect i s q) :
    ((∃ wsel r b, i = .config wsel r b) ∧ q.phase = .cfgd) ∨ (i = .setup ∧ q.phase = .ready) ∨
      ((∀ wsel r b, i ≠ .config wsel r b) ∧ i ≠ .setup ∧ q.phase = s.phase) := by
  cases he with
  | nop => exact .inr (.inr ⟨by simp, by simp, rfl⟩)
  | config wsel r b => exact .inl ⟨⟨wsel, r, b, rfl⟩, rfl⟩
  | setup => exact .inr (.inl ⟨rfl, rfl⟩)
  | word _ _ rd v hp hd => exact .inr (.inr ⟨ne_config_of_destination hd, ne_setup_of_destination hd, rfl⟩)
  | store _ _ n bytes hp hn hi => rcases hi with rfl | rfl | ⟨rs1, imm, rfl⟩ <;> simp

theorem Effect.params (he : Effect i s q) : q.params = s.params := by
  cases he <;> rfl

/-- Only CONFIG writes the configuration (R9, R29). -/
theorem Effect.configuration (he : Effect i s q) (hi : ∀ wsel r b, i ≠ .config wsel r b) :
    q.cfgWsel = s.cfgWsel ∧ q.cfgR = s.cfgR ∧ q.cfgB = s.cfgB := by
  cases he with
  | config wsel r b => exact absurd rfl (hi wsel r b)
  | _ => exact ⟨rfl, rfl, rfl⟩

/-- Only CONFIG and SETUP write S and L (R31, R32). -/
theorem Effect.tables (he : Effect i s q) (hi : ∀ wsel r b, i ≠ .config wsel r b) (hs : i ≠ .setup) :
    q.sTable = s.sTable ∧ q.lTable = s.lTable := by
  cases he with
  | config wsel r b => exact absurd rfl (hi wsel r b)
  | setup => exact absurd rfl hs
  | _ => exact ⟨rfl, rfl⟩

/-- No effect reaches a byte outside DOUT (R33, R34). -/
theorem Effect.mem_outside_dout (he : Effect i s q) {a : Nat} (ha : a < doutBase ∨ doutBase + blkBytes ≤ a) :
    q.mem.read a = s.mem.read a := by
  cases he with
  | store _ _ n bytes hp hn hi =>
    have hu := s.u_le
    exact s.mem.read_writeBytes_outside (doutBase + n) bytes (by simp only [blkBytes] at ha; omega)
  | _ => rfl

theorem Effect.mem_of_not_store (he : Effect i s q) (hE : i ≠ .encode) (hD : i ≠ .decode)
    (hW : ∀ rs1 imm, i ≠ .wst rs1 imm) : q.mem = s.mem := by
  cases he with
  | store _ _ n bytes hp hn hi =>
    rcases hi with hi | hi | ⟨rs1, imm, hi⟩
    · exact absurd hi hE
    · exact absurd hi hD
    · exact absurd hi (hW rs1 imm)
  | _ => rfl

/-- No effect reaches DLEN, KLEN or the host's side (R30, R33). -/
theorem Effect.host_side (he : Effect i s q) :
    q.dlen = s.dlen ∧ q.klen = s.klen ∧ q.events = s.events ∧ q.replies = s.replies ∧ q.draws = s.draws := by
  cases he <;> exact ⟨rfl, rfl, rfl, rfl, rfl⟩

/-- CONFIG apart, an effect reaches no register but the destination (R21, R138). -/
theorem Effect.register (he : Effect i s q) (hi : ∀ wsel r b, i ≠ .config wsel r b) {r : Reg}
    (hr : i.destination ≠ some r) : q.x.get r = s.x.get r := by
  cases he with
  | config wsel r b => exact absurd rfl (hi wsel r b)
  | word _ _ rd v hp hd =>
    have hne : r ≠ rd := by rintro rfl; exact hr hd
    rw [setWord_get, if_neg hne]
  | _ => rfl

/-! ### The frame of a command -/

/-- The phase after a command: the old one on an error, and else by its effect. -/
theorem exec_phase (h : exec i s = .next s') :
    (s'.ecode ≠ .ok ∧ s'.phase = s.phase) ∨
      (s'.ecode = .ok ∧
        (((∃ wsel r b, i = .config wsel r b) ∧ s'.phase = .cfgd) ∨ (i = .setup ∧ s'.phase = .ready) ∨
          ((∀ wsel r b, i ≠ .config wsel r b) ∧ i ≠ .setup ∧ s'.phase = s.phase))) := by
  rcases exec_next h with ⟨code, hcode, rfl⟩ | ⟨q, he, rfl⟩
  · exact .inl ⟨hcode, rfl⟩
  · exact .inr ⟨rfl, he.phase⟩

theorem exec_params (h : exec i s = .next s') : s'.params = s.params := by
  rcases exec_next h with ⟨code, -, rfl⟩ | ⟨q, he, rfl⟩
  · rfl
  · exact he.params

theorem exec_configuration (h : exec i s = .next s') (hi : ∀ wsel r b, i ≠ .config wsel r b) :
    s'.cfgWsel = s.cfgWsel ∧ s'.cfgR = s.cfgR ∧ s'.cfgB = s.cfgB := by
  rcases exec_next h with ⟨code, -, rfl⟩ | ⟨q, he, rfl⟩
  · exact ⟨rfl, rfl, rfl⟩
  · exact he.configuration hi

theorem exec_tables (h : exec i s = .next s') (hi : ∀ wsel r b, i ≠ .config wsel r b) (hs : i ≠ .setup) :
    s'.sTable = s.sTable ∧ s'.lTable = s.lTable := by
  rcases exec_next h with ⟨code, -, rfl⟩ | ⟨q, he, rfl⟩
  · exact ⟨rfl, rfl⟩
  · exact he.tables hi hs

theorem completes_of_eq {f : Instr → Prop} (hc : Completes s (· = i)) (hf : f i) : Completes s f := by
  obtain ⟨he, c, _, hp, hd, rfl⟩ := hc
  exact ⟨he, c, _, hp, hd, hf⟩

end Sys2Proof.Machine

namespace Sys2Proof.Machine
open Sys2Proof.Reference

/-- Settles O13: a command's phase by its effect, and a step's by the three ways the internal part can change. -/
theorem phaseChangesOnlyByConfigSetupOrReset : Obligations.PhaseChangesOnlyByConfigSetupOrReset := by
  refine ⟨fun i s s' h => ?_, fun s s' h hne => ?_⟩
  · rcases exec_phase h with ⟨he, hp⟩ | ⟨he, ⟨⟨wsel, r, b, rfl⟩, hp⟩ | ⟨rfl, hp⟩ | ⟨hi, hs, hp⟩⟩
    · exact ⟨fun _ => hp, fun _ _ _ _ hok => absurd hok he, fun _ hok => absurd hok he, fun _ _ => hp⟩
    · exact ⟨fun herr => absurd he herr, fun _ _ _ _ _ => hp, nofun, fun hi => absurd rfl (hi wsel r b)⟩
    · exact ⟨fun herr => absurd he herr, nofun, fun _ _ => hp, fun _ hs => absurd rfl hs⟩
    · exact ⟨fun herr => absurd he herr, fun _ _ _ hc => absurd hc (hi _ _ _), fun hc => absurd hc hs, fun _ _ => hp⟩
  · rcases step_internal h with hint | ⟨i, hc, hx⟩ | ⟨hr, rfl⟩
    · exact absurd (congrArg Internal.phase hint) hne
    · rcases exec_phase hx with ⟨-, hp⟩ | ⟨he, ⟨hi, hp⟩ | ⟨hi, hp⟩ | ⟨-, -, hp⟩⟩
      · exact absurd hp hne
      · exact .inl ⟨completes_of_eq hc hi, he, hp⟩
      · exact .inr (.inl ⟨completes_of_eq hc hi, he, hp⟩)
      · exact absurd hp hne
    · exact .inr (.inr ⟨hr, rfl⟩)

/-- Settles O14: a command by the frame of its effect, and a step by the three ways the internal part can change. -/
theorem onlyConfigSetupOrResetChangeTheInstance : Obligations.OnlyConfigSetupOrResetChangeTheInstance := by
  refine ⟨fun i s s' h => ⟨exec_params h, exec_configuration h, exec_tables h⟩, fun s s' h => ?_⟩
  rcases step_internal h with hint | ⟨i, hc, hx⟩ | ⟨hr, rfl⟩
  · simp only [State.internal, Internal.mk.injEq] at hint
    obtain ⟨hparams, hwsel, hr, hb, -, -, hS, hL⟩ := hint
    exact ⟨hparams, fun _ _ => ⟨hwsel, hr, hb⟩, fun _ _ => ⟨hS, hL⟩⟩
  · have hparams := exec_params hx
    have hcfg := exec_configuration hx
    have htables := exec_tables hx
    exact ⟨hparams, fun hn _ => hcfg fun wsel r b hi => hn (completes_of_eq hc ⟨wsel, r, b, hi⟩),
      fun hn _ => htables (fun wsel r b hi => hn (completes_of_eq hc (.inl ⟨wsel, r, b, hi⟩)))
        fun hi => hn (completes_of_eq hc (.inr hi))⟩
  · exact ⟨rfl, fun _ hn => absurd hr hn, fun _ hn => absurd hr hn⟩

/-- Settles O15, by the command's effect: an error completion writes no buffer at all. -/
theorem commandsWriteNoBufferButDout : Obligations.CommandsWriteNoBufferButDout := by
  intro i s s' h
  rcases exec_next h with ⟨code, -, rfl⟩ | ⟨q, he, rfl⟩
  · exact ⟨fun _ _ => rfl, fun _ _ _ => rfl, rfl, rfl, rfl, rfl, rfl⟩
  · exact ⟨fun _ ha => he.mem_outside_dout ha, he.mem_of_not_store, he.host_side⟩

/-- Settles O16, by the command's effect: an error completion writes no register. -/
theorem registersChangeOnlyAtTheDestination : Obligations.RegistersChangeOnlyAtTheDestination := by
  intro i s s' h hi r hr
  rcases exec_next h with ⟨code, -, rfl⟩ | ⟨q, he, rfl⟩
  · rfl
  · exact he.register hi hr

/-- Settles O7: the engine's turn is the command's meaning, in both shapes of the list of events. -/
theorem stepRunsTheDecodedCommand : Obligations.StepRunsTheDecodedCommand := by
  intro s c i hp hd
  have hturn : ∀ q : State, q.pend = some c → engineTurn q = exec i q := fun q hq => by
    rw [engineTurn_pending hq, complete_ok q hd]
  exact ⟨fun he => (step_engine he).trans (hturn s hp), fun _ he => (step_complete he).trans (hturn _ hp)⟩

end Sys2Proof.Machine
end

section
/-! PROOFS. When a command stops the model (R40, R150, R328). -/

namespace Sys2Proof.Machine

variable {s : State} {f : Fault}

theorem whenLegal_fault {legal : Bool} {op : BitVec 8} {rest : Result} (h : whenLegal legal op s rest = .fault f) :
    rest = .fault f := by
  cases legal with
  | true => exact h
  | false => cases h

theorem whenConfigured_fault {op : BitVec 8} {rest : Result} (h : whenConfigured op s rest = .fault f) :
    rest = .fault f := by
  unfold whenConfigured at h
  split at h
  · cases h
  · exact h

theorem whenReady_fault {op : BitVec 8} {rest : Result} (h : whenReady op s rest = .fault f) : rest = .fault f := by
  have h := whenConfigured_fault h
  split at h
  · exact h
  · cases h

/-- A command that only checks the phase and writes a word never stops. -/
theorem wordCommand_ne_fault {w : Nat} {op : BitVec 8} {rd : Reg} {v : Word w} :
    whenConfigured op s (writeWord op rd v s) ≠ .fault f :=
  fun h => nomatch whenConfigured_fault h

/-- The only ways a command stops: an unwritten byte of the key, of the block or of the slot that it reads. -/
theorem exec_fault {i : Instr} (h : exec i s = .fault f) :
    (f = .unwrittenKeyByte ∧ i = .setup ∧ s.keyBytes s.b = none) ∨
      (f = .unwrittenInputByte ∧ (i = .encode ∨ i = .decode) ∧ s.dinBytes 0 (2 * s.u) = none) ∨
      (f = .unwrittenInputByte ∧ ∃ d imm, i = .wld d imm ∧ s.dinBytes (s.slotBase imm) s.u = none) := by
  cases i with
  | nop => cases h
  | config wsel r b =>
    simp only [exec, execConfig] at h
    split at h
    · cases h
    · split_ifs at h
  | setup =>
    have h := whenConfigured_fault (show whenConfigured _ s _ = _ from h)
    split at h
    · cases h
    · split at h
      · next hk => cases h; exact .inl ⟨rfl, rfl, hk⟩
      · cases h
  | encode =>
    obtain ⟨hf, hb⟩ := blockCommand_fault (show blockCommand _ s _ = _ from h)
    exact .inr (.inl ⟨hf, .inl rfl, hb⟩)
  | decode =>
    obtain ⟨hf, hb⟩ := blockCommand_fault (show blockCommand _ s _ = _ from h)
    exact .inr (.inl ⟨hf, .inr rfl, hb⟩)
  | wld rd imm =>
    have h := whenConfigured_fault (whenLegal_fault (show whenLegal _ _ s _ = _ from h))
    split at h
    · next hb => cases h; exact .inr (.inr ⟨rfl, rd, imm, rfl, hb⟩)
    · cases h
  | wst rs1 imm => cases whenConfigured_fault (whenLegal_fault (show whenLegal _ _ s _ = _ from h))
  | rds rd imm =>
    have h := whenReady_fault (show whenReady _ s _ = _ from h)
    split at h <;> cases h
  | _ => exact absurd h wordCommand_ne_fault

theorem slotIndex_eq_mod_two (imm : BitVec 16) : slotIndex imm = imm.toNat % 2 := by
  simp [slotIndex, BitVec.extractLsb'_toNat]

/-- Settles O18: a fault is a failed read of bytes, so one of them has not been written. -/
theorem faultsOnlyOnUnwrittenBytes : Obligations.FaultsOnlyOnUnwrittenBytes := by
  intro i s f h
  rcases exec_fault h with ⟨hf, hi, hb⟩ | ⟨hf, hi, hb⟩ | ⟨hf, d, imm, hi, hb⟩
  · exact .inl ⟨hf, hi, (s.mem.readBytes_eq_none _ _).mp hb⟩
  · exact .inr (.inl ⟨hf, hi, (s.mem.readBytes_eq_none _ _).mp hb⟩)
  · have hslot := (s.mem.readBytes_eq_none _ _).mp hb
    rw [State.slotBase, slotIndex_eq_mod_two] at hslot
    exact .inr (.inr ⟨hf, d, imm, hi, hslot⟩)

end Sys2Proof.Machine
end

section
/-! PROOFS. The register window: four bytes as a register, what a read returns, and a register written and read back
(R23, R25, R40, R62 to R67). -/

namespace Sys2Proof.Machine
open Sys2Proof.Reference

/-! ### Fields of a word as numbers -/

theorem bitsAt_toNat {n lo : Nat} (v : BitVec n) (h : lo + n ≤ 32) : (bitsAt lo v).toNat = 2 ^ lo * v.toNat := by
  have hn : 2 ^ n ≤ 2 ^ 32 := Nat.pow_le_pow_right (by omega) (by omega)
  have hv : 2 ^ lo * v.toNat < 2 ^ 32 := calc
    2 ^ lo * v.toNat < 2 ^ lo * 2 ^ n := Nat.mul_lt_mul_of_pos_left v.isLt (Nat.two_pow_pos lo)
    _ = 2 ^ (lo + n) := (Nat.pow_add ..).symm
    _ ≤ 2 ^ 32 := Nat.pow_le_pow_right (by omega) h
  rw [bitsAt, BitVec.toNat_shiftLeft, BitVec.toNat_setWidth, Nat.mod_eq_of_lt (Nat.lt_of_lt_of_le v.isLt hn),
    Nat.shiftLeft_eq, Nat.mul_comm, Nat.mod_eq_of_lt hv]

/-- A field put above the bits of a word adds its number. -/
theorem or_bitsAt_toNat {n lo : Nat} (x : BitVec 32) (v : BitVec n) (hx : x.toNat < 2 ^ lo) (h : lo + n ≤ 32) :
    (x ||| bitsAt lo v).toNat = x.toNat + 2 ^ lo * v.toNat := by
  rw [BitVec.toNat_or, bitsAt_toNat v h, Nat.or_comm, ← Nat.two_pow_add_eq_or_of_lt hx, Nat.add_comm]

theorem packBytes_toNat (b0 b1 b2 b3 : Byte) :
    (packBytes b0 b1 b2 b3).toNat = b0.toNat + 2 ^ 8 * b1.toNat + 2 ^ 16 * b2.toNat + 2 ^ 24 * b3.toNat := by
  have h0 : (bitsAt 0 b0).toNat = b0.toNat := by rw [bitsAt_toNat b0 (by decide)]; omega
  have h1 := or_bitsAt_toNat (bitsAt 0 b0) b1 (lo := 8) (by omega) (by decide)
  have h2 := or_bitsAt_toNat (bitsAt 0 b0 ||| bitsAt 8 b1) b2 (lo := 16) (by omega) (by decide)
  have h3 := or_bitsAt_toNat (bitsAt 0 b0 ||| bitsAt 8 b1 ||| bitsAt 16 b2) b3 (lo := 24) (by omega) (by decide)
  rw [packBytes, h3, h2, h1, h0]

theorem packBytes_eq_wordOfBytes (b : Nat → Byte) :
    packBytes (b 0) (b 1) (b 2) (b 3) = BitVec.ofNat 32 (wordOfBytes b) := by
  apply BitVec.eq_of_toNat_eq
  rw [BitVec.toNat_ofNat, wordOfBytes, ← packBytes_toNat, Nat.mod_eq_of_lt (BitVec.isLt _)]

/-- The four bytes of a register's value give it back (R64). -/
theorem packBytes_extract (v : BitVec 32) :
    packBytes (v.extractLsb' 0 8) (v.extractLsb' 8 8) (v.extractLsb' 16 8) (v.extractLsb' 24 8) = v := by
  apply BitVec.eq_of_toNat_eq
  have hv := v.isLt
  simp only [packBytes_toNat, BitVec.extractLsb'_toNat, Nat.shiftRight_eq_div_pow]
  omega

/-! ### Reads -/

@[simp] theorem State.regValue_withEvents (s : State) (evs : List Event) (reg : BusReg) :
    ({ s with events := evs } : State).regValue reg = s.regValue reg := by
  cases reg <;> rfl

/-- A read returns the register's value, and reads alike whatever events are still to come. -/
theorem readsAs_of_regValue {s : State} {a : BitVec 12} {v : Nat} (h : s.regValue (busReg a) = BitVec.ofNat 32 v) :
    ReadsAs s a v := by
  intro rest
  rw [step_read rfl, State.busRead]
  simp only [State.regValue_withEvents, h]

theorem alignOffset_ofNat {n : Nat} (h : n < 2 ^ 12) : alignOffset (BitVec.ofNat 12 n) = 4 * (n / 4) := by
  rw [alignOffset, BitVec.toNat_ofNat, Nat.mod_eq_of_lt h]

theorem busReg_din {m : Nat} (h : m < 8) : busReg (BitVec.ofNat 12 (0x020 + 4 * m)) = .din m := by
  rw [busReg_eq_din_iff, alignOffset_ofNat (by omega)]
  omega

theorem busReg_dout {m : Nat} (h : m < 8) : busReg (BitVec.ofNat 12 (0x040 + 4 * m)) = .dout m := by
  rw [busReg_eq_dout_iff, alignOffset_ofNat (by omega)]
  omega

theorem busReg_key {m : Nat} (h : m < 64) : busReg (BitVec.ofNat 12 (0x100 + 4 * m)) = .key m := by
  rw [busReg_eq_key_iff, alignOffset_ofNat (by omega)]
  omega

theorem freeWord_eq (s : State) :
    s.freeWord = BitVec.ofNat 32 (wordOfBytes fun k => Config.freeByte (s.draws + k)) :=
  packBytes_eq_wordOfBytes s.freeLane

theorem lane_of_unwritten {s : State} {a k : Nat} (h : s.mem.read (a + k) = none) : s.lane a k = s.freeLane k := by
  simp [State.lane, h]

/-- A buffer register with no byte written reads as any value (R40). -/
theorem bufferWord_of_unwritten {s : State} {a : Nat} (h : ∀ k, k < 4 → s.mem.read (a + k) = none) :
    s.bufferWord a = s.freeWord := by
  rw [State.bufferWord, lane_of_unwritten (h 0 (by decide)), lane_of_unwritten (h 1 (by decide)),
    lane_of_unwritten (h 2 (by decide)), lane_of_unwritten (h 3 (by decide)), State.freeWord]

/-- Settles O49: each of the three reads returns the four free bytes set aside for it. -/
theorem unspecifiedReadsAreFree : Obligations.UnspecifiedReadsAreFree := by
  intro s m
  refine ⟨fun hm h => ?_, fun hm h => ?_, fun hm h => ?_⟩ <;> apply readsAs_of_regValue <;> rw [← freeWord_eq]
  · rw [busReg_dout hm, State.regValue]
    rcases h with hbusy | hmem
    · rw [if_pos hbusy]
    · rw [show s.bufferWord (doutBase + 4 * m) = s.freeWord from bufferWord_of_unwritten hmem, ite_self]
  · rw [busReg_din hm]
    exact bufferWord_of_unwritten h
  · rw [busReg_key hm]
    exact bufferWord_of_unwritten h

/-! ### A write, then a read -/

theorem State.busWrite_of_idle {s : State} (h : s.busy = false) (a : BitVec 12) (v : BitVec 32) :
    s.busWrite a v = s.writeReg v (busReg a) := by
  simp [State.busWrite, h]

@[simp] theorem State.writeReg_events (s : State) (v : BitVec 32) (reg : BusReg) :
    (s.writeReg v reg).events = s.events := by
  cases reg <;> rfl

@[simp] theorem State.writeReg_replies (s : State) (v : BitVec 32) (reg : BusReg) :
    (s.writeReg v reg).replies = s.replies := by
  cases reg <;> rfl

theorem lane_writeBytes {s : State} {a k : Nat} {bs : List Byte} (hmem : ∃ m : Memory, s.mem = m.writeBytes a bs)
    (hk : k < bs.length) : s.lane a k = bs[k] := by
  obtain ⟨m, hm⟩ := hmem
  rw [State.lane, hm, m.read_writeBytes_inside a bs hk, Option.getD_some]

/-- A buffer register whose four bytes were just written reads as the value written (R64). -/
theorem bufferWord_writeBytes {s : State} {a : Nat} {v : BitVec 32}
    (hmem : ∃ m : Memory, s.mem = m.writeBytes a (unpackBytes v)) : s.bufferWord a = v := by
  have hlane (k : Nat) (hk : k < 4) : s.lane a k = (unpackBytes v)[k]'hk := lane_writeBytes hmem hk
  rw [State.bufferWord, hlane 0 (by decide), hlane 1 (by decide), hlane 2 (by decide), hlane 3 (by decide)]
  exact packBytes_extract v

theorem regValue_writeReg_din (s : State) (v : BitVec 32) (m : Nat) : (s.writeReg v (.din m)).regValue (.din m) = v :=
  bufferWord_writeBytes ⟨s.mem, rfl⟩

theorem regValue_writeReg_key (s : State) (v : BitVec 32) (m : Nat) : (s.writeReg v (.key m)).regValue (.key m) = v :=
  bufferWord_writeBytes ⟨s.mem, rfl⟩

theorem setWidth_setWidth_eq_ofNat_mod (v : BitVec 32) (n : Nat) :
    (v.setWidth n).setWidth 32 = BitVec.ofNat 32 (v.toNat % 2 ^ n) := by
  apply BitVec.eq_of_toNat_eq
  simp

theorem busReg_of_din_range {a : BitVec 12} (hl : 0x020 ≤ a.toNat) (hu : a.toNat < 0x040) : ∃ m, busReg a = .din m :=
  ⟨(alignOffset a - 0x020) / 4, by rw [busReg_eq_din_iff, alignOffset]; omega⟩

theorem busReg_of_key_range {a : BitVec 12} (hl : 0x100 ≤ a.toNat) (hu : a.toNat < 0x200) : ∃ m, busReg a = .key m :=
  ⟨(alignOffset a - 0x100) / 4, by rw [busReg_eq_key_iff, alignOffset]; omega⟩

/-- With BUSY = 0, a write and then a read of one offset add to the replies what the register then holds. -/
theorem step_write_read {s : State} {a : BitVec 12} {v : BitVec 32} {rest : List Event} (hidle : s.busy = false)
    (he : s.events = .write a v :: .read a :: rest) :
    ∃ s1 s2 : State, step s = .next s1 ∧ step s1 = .next s2 ∧
      s2.replies = s.replies ++ [(s.popped.writeReg v (busReg a)).regValue (busReg a)] := by
  refine ⟨s.popped.writeReg v (busReg a), _, ?_, step_read (a := a) (rest := rest) ?_, ?_⟩
  · rw [step_write he, popped_of_events he, State.busWrite_of_idle (s := s.popped) hidle]
  · simp [he]
  · rw [State.busRead_replies, State.regValue_withEvents]
    simp

/-- Settles O54: the read finds what the write left in the register. -/
theorem writtenRegistersReadBack : Obligations.WrittenRegistersReadBack := by
  intro s a v rest hidle he
  obtain ⟨s1, s2, h1, h2, hreply⟩ := step_write_read hidle he
  refine ⟨s1, s2, h1, h2, fun ha => ?_, fun ha => ?_, fun ha => ?_⟩
  · rcases ha with ⟨hl, hu⟩ | ⟨hl, hu⟩
    · obtain ⟨m, hm⟩ := busReg_of_din_range hl hu
      rw [hreply, hm, regValue_writeReg_din]
    · obtain ⟨m, hm⟩ := busReg_of_key_range hl hu
      rw [hreply, hm, regValue_writeReg_key]
  · rw [hreply, show busReg a = .dlen by subst ha; decide]
    exact congrArg (s.replies ++ [·]) (setWidth_setWidth_eq_ofNat_mod v 6)
  · rw [hreply, show busReg a = .klen by subst ha; decide]
    exact congrArg (s.replies ++ [·]) (setWidth_setWidth_eq_ofNat_mod v 9)

/-! ### Reset values -/

/-- PARAM has the layout of four bytes, its last field being one bit short (R25). -/
theorem paramWord_toNat (s : State) :
    s.paramWord.toNat =
      s.params.rmax.toNat + 2 ^ 8 * s.params.keyBound.toNat + 2 ^ 16 * 8 + 2 ^ 24 * 0x7F := by
  rw [show s.paramWord = packBytes s.params.rmax s.params.keyBound 8#8 0x7F#8 from rfl, packBytes_toNat]
  rfl

theorem statusWord_resetFor (p : Params) : (State.resetFor p).statusWord = 0#32 :=
  (show State.reset.statusWord = 0#32 by decide)

theorem cfgrWord_resetFor (p : Params) : (State.resetFor p).cfgrWord = 0#32 :=
  (show State.reset.cfgrWord = 0#32 by decide)

/-- Settles O55: the reset state's fields, and PARAM as a number for every build. -/
theorem resetValues : Obligations.ResetValues := by
  refine ⟨fun p => ?_, rfl, by decide, rfl⟩
  exact ⟨rfl, rfl, rfl, rfl, rfl, rfl, rfl, rfl, rfl, rfl, rfl, replicate_zero_get, rfl, rfl, fun _ => rfl,
    statusWord_resetFor p, cfgrWord_resetFor p, paramWord_toNat (State.resetFor p)⟩

end Sys2Proof.Machine
end

section
/-! PROOFS. Reads and writes of the register window, one register at a time (R23 to R34, R60 to R68). -/

namespace Sys2Proof.Machine
open Sys2Proof.Reference

/-! ### The register an offset names -/

/-- The register depends on the aligned offset only (R60). -/
theorem busReg_congr {a a' : BitVec 12} (h : alignOffset a = alignOffset a') : busReg a = busReg a' := by
  simp only [busReg, h]

/-- At a reserved offset every guard of the map fails (R23). -/
theorem busReg_of_reservedOffset {a : BitVec 12} (h : reservedOffset (alignOffset a)) : busReg a = .reserved := by
  unfold reservedOffset at h
  simp only [busReg]
  repeat rw [if_neg (by omega)]

/-- `a AND 0xFFC` clears bits [1:0], which alignment drops (R60). -/
theorem alignOffset_and_FFC (a : BitVec 12) : alignOffset (a &&& 0xFFC#12) = alignOffset a := by
  have hquot : (a &&& 0xFFC#12).toNat / 4 = a.toNat / 4 := calc
    (a &&& 0xFFC#12).toNat / 2 ^ 2 = (a.toNat >>> 2) &&& (2 ^ 10 - 1) := by
      rw [← Nat.shiftRight_eq_div_pow, BitVec.toNat_and, Nat.shiftRight_and_distrib]; rfl
    _ = a.toNat / 2 ^ 2 % 2 ^ 10 := by rw [Nat.and_two_pow_sub_one_eq_mod, Nat.shiftRight_eq_div_pow]
    _ = a.toNat / 2 ^ 2 := Nat.mod_eq_of_lt (by omega)
  rw [alignOffset, alignOffset, hquot]

theorem busReg_and_FFC (a : BitVec 12) : busReg (a &&& 0xFFC#12) = busReg a :=
  busReg_congr (alignOffset_and_FFC a)

/-- Settles O50: a read and a write reach the engine through the register that the offset names. -/
theorem lowAddressBitsAreIgnored : Obligations.LowAddressBitsAreIgnored := by
  intro s a v rest
  constructor
  · rw [step_read rfl, step_read rfl, State.busRead, State.busRead, busReg_and_FFC]
  · rw [step_write rfl, step_write rfl, State.busWrite, State.busWrite, busReg_and_FFC]

/-! ### The registers of fields, as numbers (R27 to R29, R92, R280) -/

theorem phaseCode_toNat (p : Phase) : (phaseCode p).toNat = phaseNumber p := by cases p <;> rfl

theorem errCodeBits_toNat (e : ErrCode) : (errCodeBits e).toNat = errNumber e := by cases e <;> rfl

theorem widthCode_toNat (wd : Width) : (widthCode wd).toNat = widthNumber wd := by cases wd <;> rfl

/-- A field put above the bits of a word whose number is known. -/
theorem or_bitsAt_toNat_of_eq {n lo m : Nat} {x : BitVec 32} (v : BitVec n) (hx : x.toNat = m) (hm : m < 2 ^ lo)
    (h : lo + n ≤ 32) : (x ||| bitsAt lo v).toNat = m + 2 ^ lo * v.toNat := by
  rw [or_bitsAt_toNat x v (hx ▸ hm) h, hx]

theorem bitsAt_zero_toNat {n : Nat} (v : BitVec n) (h : n ≤ 32) : (bitsAt 0 v).toNat = v.toNat := by
  rw [bitsAt_toNat v (by omega), Nat.pow_zero, Nat.one_mul]

theorem statusWord_toNat (s : State) :
    s.statusWord.toNat =
      s.busy.toNat + 2 * phaseNumber s.phase + 2 ^ 3 * s.err.toNat + 2 ^ 4 * s.ovr.toNat +
        2 ^ 8 * errNumber s.ecode + 2 ^ 16 * s.lastop.toNat := by
  rw [State.statusWord, ← phaseCode_toNat, ← errCodeBits_toNat, ← BitVec.toNat_ofBool s.busy,
    ← BitVec.toNat_ofBool s.err, ← BitVec.toNat_ofBool s.ovr]
  have hbusy := bitsAt_zero_toNat (BitVec.ofBool s.busy) (by decide)
  have hphase := or_bitsAt_toNat_of_eq (phaseCode s.phase) (lo := 1) hbusy (by omega) (by decide)
  have herr := or_bitsAt_toNat_of_eq (BitVec.ofBool s.err) (lo := 3) hphase (by omega) (by decide)
  have hovr := or_bitsAt_toNat_of_eq (BitVec.ofBool s.ovr) (lo := 4) herr (by omega) (by decide)
  have hecode := or_bitsAt_toNat_of_eq (errCodeBits s.ecode) (lo := 8) hovr (by omega) (by decide)
  exact or_bitsAt_toNat_of_eq s.lastop (lo := 16) hecode (by omega) (by decide)

theorem cfgrWord_toNat (s : State) :
    s.cfgrWord.toNat = widthNumber s.cfgWsel + 2 ^ 8 * s.cfgR.toNat + 2 ^ 16 * s.cfgB.toNat := by
  rw [State.cfgrWord, ← widthCode_toNat]
  have hwsel := bitsAt_zero_toNat (widthCode s.cfgWsel) (by decide)
  have hr := or_bitsAt_toNat_of_eq s.cfgR (lo := 8) hwsel (by omega) (by decide)
  exact or_bitsAt_toNat_of_eq s.cfgB (lo := 16) hr (by omega) (by decide)

theorem readsAs_of_regValue_toNat {s : State} {a : BitVec 12} {v : Nat} (h : (s.regValue (busReg a)).toNat = v) :
    ReadsAs s a v :=
  readsAs_of_regValue (by rw [← h, BitVec.ofNat_toNat, BitVec.setWidth_eq])

/-- Settles O47: each offset names its register, and the register's value is the sum of its fields. -/
theorem registerReadsGiveTheirFields : Obligations.RegisterReadsGiveTheirFields := by
  intro s
  refine ⟨readsAs_of_regValue rfl, readsAs_of_regValue_toNat (paramWord_toNat s), readsAs_of_regValue rfl,
    readsAs_of_regValue_toNat (statusWord_toNat s), readsAs_of_regValue_toNat (cfgrWord_toNat s),
    readsAs_of_regValue_toNat (BitVec.toNat_setWidth_of_le (by decide)),
    readsAs_of_regValue_toNat (BitVec.toNat_setWidth_of_le (by decide)), fun a ha => readsAs_of_regValue ?_⟩
  rw [busReg_of_reservedOffset ha]
  rfl

/-! ### Reads of the buffers -/

theorem lane_of_lanes {s : State} {a k : Nat} {b : Nat → Byte} (h : Lanes s a b) (hk : k < 4) : s.lane a k = b k := by
  rcases h k hk with hwritten | ⟨hfree, hb⟩
  · rw [State.lane, hwritten, Option.getD_some]
  · rw [lane_of_unwritten hfree, hb, State.freeLane]

theorem bufferWord_of_lanes {s : State} {a : Nat} {b : Nat → Byte} (h : Lanes s a b) :
    s.bufferWord a = BitVec.ofNat 32 (wordOfBytes b) := by
  rw [← packBytes_eq_wordOfBytes, State.bufferWord, lane_of_lanes h (by decide), lane_of_lanes h (by decide),
    lane_of_lanes h (by decide), lane_of_lanes h (by decide)]

/-- Settles O48: each of the three registers is read as its four lanes, DOUTm because BUSY = 0. -/
theorem bufferReadsReturnTheirBytes : Obligations.BufferReadsReturnTheirBytes := by
  intro s m b
  refine ⟨fun hm h => ?_, fun hm h => ?_, fun hm hidle h => ?_⟩ <;> apply readsAs_of_regValue
  · rw [busReg_din hm]
    exact bufferWord_of_lanes h
  · rw [busReg_key hm]
    exact bufferWord_of_lanes h
  · rw [busReg_dout hm, State.regValue, hidle, if_neg (by decide)]
    exact bufferWord_of_lanes h

/-! ### Writes -/

theorem State.busWrite_of_busy {s : State} (h : s.busy = true) (a : BitVec 12) (v : BitVec 32) :
    s.busWrite a v = s.markOverrun := if_pos h

/-- Settles O51: the write is dropped whatever register its offset names. -/
theorem writesWhileBusyAreDropped : Obligations.WritesWhileBusyAreDropped := by
  intro s a v hbusy rest
  rw [step_write rfl, State.busWrite_of_busy (s := { s with events := rest }) hbusy]
  rfl

@[simp] theorem State.writeReg_withEvents (s : State) (evs : List Event) (v : BitVec 32) (reg : BusReg) :
    ({ s with events := evs } : State).writeReg v reg = { s.writeReg v reg with events := evs } := by
  cases reg <;> rfl

/-- With BUSY = 0 a write does what its register does, whatever events are still to come. -/
theorem writeGives_of_writeReg {s s' : State} {a : BitVec 12} {v : BitVec 32} (hidle : s.busy = false)
    (h : s.writeReg v (busReg a) = s') : WriteGives s a v s' := by
  intro rest
  rw [step_write rfl, State.busWrite_of_idle (s := { s with events := rest }) hidle, State.writeReg_withEvents, h]

theorem not_getLsbD_eq_div_mod (v : BitVec 32) (i : Nat) : (!v.getLsbD i) = (v.toNat / 2 ^ i % 2 == 0) := by
  rw [← BitVec.testBit_toNat, Nat.testBit_eq_decide_div_mod_eq]
  rcases Nat.mod_two_eq_zero_or_one (v.toNat / 2 ^ i) with h | h <;> rw [h] <;> rfl

theorem clearSticky_eq (s : State) (v : BitVec 32) :
    s.clearSticky v =
      { s with
        err := s.err && (v.toNat / 2 ^ 3 % 2 == 0), ovr := s.ovr && (v.toNat / 2 ^ 4 % 2 == 0) } := by
  rw [State.clearSticky, not_getLsbD_eq_div_mod, not_getLsbD_eq_div_mod]

/-- ID, PARAM, CFGR, DOUTm and the reserved offsets ignore a write (R63). -/
theorem writeReg_of_readOnly (s : State) (v : BitVec 32) {a : BitVec 12}
    (h : alignOffset a = 0x000 ∨ alignOffset a = 0x004 ∨ alignOffset a = 0x010 ∨
      (0x040 ≤ alignOffset a ∧ alignOffset a ≤ 0x05C) ∨ reservedOffset (alignOffset a)) :
    s.writeReg v (busReg a) = s := by
  rcases h with h | h | h | ⟨hl, hu⟩ | h
  · rw [busReg_congr (a' := 0x000#12) h]; rfl
  · rw [busReg_congr (a' := 0x004#12) h]; rfl
  · rw [busReg_congr (a' := 0x010#12) h]; rfl
  · have hdout : busReg a = .dout ((alignOffset a - 0x040) / 4) := by
      have halign := alignOffset_mod_four a
      rw [busReg_eq_dout_iff]
      omega
    rw [hdout]; rfl
  · rw [busReg_of_reservedOffset h]; rfl

/-- Settles O52: each offset names its register, and the register's write is what the statement says. -/
theorem registerWritesWhenIdle : Obligations.RegisterWritesWhenIdle := by
  intro s v hidle
  exact ⟨writeGives_of_writeReg hidle rfl, writeGives_of_writeReg hidle (clearSticky_eq s v),
    writeGives_of_writeReg hidle rfl, writeGives_of_writeReg hidle rfl,
    fun _ ha => writeGives_of_writeReg hidle (writeReg_of_readOnly s v ha)⟩

theorem unpackBytes_getElem? (v : BitVec 32) {k : Nat} (hk : k < 4) :
    (unpackBytes v)[k]? = some (BitVec.ofNat 8 (v.toNat / 2 ^ (8 * k))) := by
  rw [← Nat.shiftRight_eq_div_pow]
  match k, hk with
  | 0, _ | 1, _ | 2, _ | 3, _ => rfl

theorem read_writeBytes_unpackBytes (m : Memory) (a : Nat) (v : BitVec 32) {k : Nat} (hk : k < 4) :
    (m.writeBytes a (unpackBytes v)).read (a + k) = some (BitVec.ofNat 8 (v.toNat / 2 ^ (8 * k))) := by
  rw [m.read_writeBytes_inside a (unpackBytes v) hk, ← unpackBytes_getElem? v hk]
  exact (List.getElem?_eq_getElem hk).symm

/-- Settles O53: both buffers' writes store the value's four bytes at the register's place. -/
theorem bufferWritesStoreTheirBytes : Obligations.BufferWritesStoreTheirBytes := by
  intro s m base v hidle hbase
  have hwrite : s.writeReg v (busReg (BitVec.ofNat 12 (base + 4 * m))) =
      { s with mem := s.mem.writeBytes (base + 4 * m) (unpackBytes v) } := by
    rcases hbase with ⟨rfl, hm⟩ | ⟨rfl, hm⟩
    · rw [busReg_din hm]; rfl
    · rw [busReg_key hm]; rfl
  exact ⟨_, writeGives_of_writeReg hidle hwrite, fun _ hk => read_writeBytes_unpackBytes _ _ v hk,
    fun _ ha => s.mem.read_writeBytes_outside _ _ ha⟩

end Sys2Proof.Machine
end

section
/-! PROOFS. Command words as numbers: the formats' words, the fields of a word, and the masks of bits that must be 0
(R90 to R96). -/

namespace Sys2Proof
open Sys2Proof.Machine

/-! ### The formats' words as numbers (R91 to R94) -/

@[simp] theorem regBits_toNat (r : Reg) : (regBits r).toNat = r.val := Nat.mod_eq_of_lt r.isLt

@[simp] theorem regBits_toFin (r : Reg) : (regBits r).toFin = r := Fin.ext (regBits_toNat r)

theorem formatN_toNat (op : BitVec 8) : (formatN op).toNat = op.toNat := bitsAt_zero_toNat op (by decide)

theorem formatC_toNat (op : BitVec 8) (wsel : BitVec 3) (r : BitVec 8) (b : BitVec 12) :
    (formatC op wsel r b).toNat = op.toNat + 2 ^ 8 * wsel.toNat + 2 ^ 12 * r.toNat + 2 ^ 20 * b.toNat := by
  have hop := bitsAt_zero_toNat op (by decide)
  have hwsel := or_bitsAt_toNat_of_eq wsel (lo := 8) hop (by omega) (by decide)
  have hr := or_bitsAt_toNat_of_eq r (lo := 12) hwsel (by omega) (by decide)
  exact or_bitsAt_toNat_of_eq b (lo := 20) hr (by omega) (by decide)

theorem formatR_toNat (op : BitVec 8) (rd rs1 rs2 : BitVec 3) :
    (formatR op rd rs1 rs2).toNat = op.toNat + 2 ^ 8 * rd.toNat + 2 ^ 12 * rs1.toNat + 2 ^ 16 * rs2.toNat := by
  have hop := bitsAt_zero_toNat op (by decide)
  have hrd := or_bitsAt_toNat_of_eq rd (lo := 8) hop (by omega) (by decide)
  have hrs1 := or_bitsAt_toNat_of_eq rs1 (lo := 12) hrd (by omega) (by decide)
  exact or_bitsAt_toNat_of_eq rs2 (lo := 16) hrs1 (by omega) (by decide)

theorem formatI_toNat (op : BitVec 8) (rd rs1 : BitVec 3) (imm : BitVec 16) :
    (formatI op rd rs1 imm).toNat = op.toNat + 2 ^ 8 * rd.toNat + 2 ^ 12 * rs1.toNat + 2 ^ 16 * imm.toNat := by
  have hop := bitsAt_zero_toNat op (by decide)
  have hrd := or_bitsAt_toNat_of_eq rd (lo := 8) hop (by omega) (by decide)
  have hrs1 := or_bitsAt_toNat_of_eq rs1 (lo := 12) hrd (by omega) (by decide)
  exact or_bitsAt_toNat_of_eq imm (lo := 16) hrs1 (by omega) (by decide)

/-- Settles O1, from the sum of the fields in each format. -/
theorem commandWordsHoldTheirFields : Obligations.CommandWordsHoldTheirFields := by
  refine ⟨fun wsel r b => formatC_toNat _ wsel r b,
    ⟨formatN_toNat _, formatN_toNat _, formatN_toNat _, formatN_toNat _⟩, fun d => ?_, fun d a b => ?_,
    fun d a imm => ?_⟩
  · simp [encode, formatR_toNat, Op.zero, Op.ldp, Op.ldq]
  · simp [encode, formatR_toNat, Op.add, Op.sub, Op.xor, Op.or, Op.rol, Op.ror, Op.low32]
  · simp [encode, formatI_toNat, Op.ldi, Op.roli, Op.rori, Op.wld, Op.wst, Op.rds]

/-! ### The fields of a word as numbers (R90, R92 to R94) -/

theorem extract_toNat {m : Nat} (c : BitVec m) (lo n : Nat) : (c.extractLsb' lo n).toNat = c.toNat / 2 ^ lo % 2 ^ n := by
  rw [BitVec.extractLsb'_toNat, Nat.shiftRight_eq_div_pow]

theorem opField_toNat (c : BitVec 32) : (opField c).toNat = c.toNat / 2 ^ 0 % 2 ^ 8 := extract_toNat c 0 8
theorem rdField_val (c : BitVec 32) : (rdField c).val = c.toNat / 2 ^ 8 % 2 ^ 3 := extract_toNat c 8 3
theorem rs1Field_val (c : BitVec 32) : (rs1Field c).val = c.toNat / 2 ^ 12 % 2 ^ 3 := extract_toNat c 12 3
theorem rs2Field_val (c : BitVec 32) : (rs2Field c).val = c.toNat / 2 ^ 16 % 2 ^ 3 := extract_toNat c 16 3
theorem immField_toNat (c : BitVec 32) : (immField c).toNat = c.toNat / 2 ^ 16 % 2 ^ 16 := extract_toNat c 16 16
theorem wselField_toNat (c : BitVec 32) : (wselField c).toNat = c.toNat / 2 ^ 8 % 2 ^ 3 := extract_toNat c 8 3
theorem rField_toNat (c : BitVec 32) : (rField c).toNat = c.toNat / 2 ^ 12 % 2 ^ 8 := extract_toNat c 12 8
theorem bField_toNat (c : BitVec 32) : (bField c).toNat = c.toNat / 2 ^ 20 % 2 ^ 12 := extract_toNat c 20 12

@[simp] theorem wselField_formatC (op : BitVec 8) (wsel : BitVec 3) (r : BitVec 8) (b : BitVec 12) :
    wselField (formatC op wsel r b) = wsel := by
  apply BitVec.eq_of_toNat_eq
  rw [wselField_toNat, formatC_toNat]
  omega

@[simp] theorem rField_formatC (op : BitVec 8) (wsel : BitVec 3) (r : BitVec 8) (b : BitVec 12) :
    rField (formatC op wsel r b) = r := by
  apply BitVec.eq_of_toNat_eq
  rw [rField_toNat, formatC_toNat]
  omega

@[simp] theorem bField_formatC (op : BitVec 8) (wsel : BitVec 3) (r : BitVec 8) (b : BitVec 12) :
    bField (formatC op wsel r b) = b := by
  apply BitVec.eq_of_toNat_eq
  rw [bField_toNat, formatC_toNat]
  omega

@[simp] theorem rdField_formatR (op : BitVec 8) (rd rs1 rs2 : BitVec 3) :
    rdField (formatR op rd rs1 rs2) = rd.toFin := by
  apply Fin.ext
  rw [rdField_val, formatR_toNat, BitVec.val_toFin]
  omega

@[simp] theorem rs1Field_formatR (op : BitVec 8) (rd rs1 rs2 : BitVec 3) :
    rs1Field (formatR op rd rs1 rs2) = rs1.toFin := by
  apply Fin.ext
  rw [rs1Field_val, formatR_toNat, BitVec.val_toFin]
  omega

@[simp] theorem rs2Field_formatR (op : BitVec 8) (rd rs1 rs2 : BitVec 3) :
    rs2Field (formatR op rd rs1 rs2) = rs2.toFin := by
  apply Fin.ext
  rw [rs2Field_val, formatR_toNat, BitVec.val_toFin]
  omega

@[simp] theorem rdField_formatI (op : BitVec 8) (rd rs1 : BitVec 3) (imm : BitVec 16) :
    rdField (formatI op rd rs1 imm) = rd.toFin := by
  apply Fin.ext
  rw [rdField_val, formatI_toNat, BitVec.val_toFin]
  omega

@[simp] theorem rs1Field_formatI (op : BitVec 8) (rd rs1 : BitVec 3) (imm : BitVec 16) :
    rs1Field (formatI op rd rs1 imm) = rs1.toFin := by
  apply Fin.ext
  rw [rs1Field_val, formatI_toNat, BitVec.val_toFin]
  omega

@[simp] theorem immField_formatI (op : BitVec 8) (rd rs1 : BitVec 3) (imm : BitVec 16) :
    immField (formatI op rd rs1 imm) = imm := by
  apply BitVec.eq_of_toNat_eq
  rw [immField_toNat, formatI_toNat]
  omega

/-! ### Bits that must be 0, as numbers -/

/-- The word with 1 in the `n` bits from `lo` on and 0 elsewhere. -/
def fieldMask (lo n : Nat) : BitVec 32 := bitsAt lo (BitVec.allOnes n)

theorem and_fieldMask_eq_bitsAt (c : BitVec 32) (lo n : Nat) :
    c &&& fieldMask lo n = bitsAt lo (c.extractLsb' lo n) := by
  ext i hi
  by_cases hlo : i < lo
  · simp [fieldMask, bitsAt, hlo]
  · simp [fieldMask, bitsAt, hlo, Nat.add_sub_of_le (Nat.le_of_not_lt hlo), BitVec.getLsbD_eq_getElem hi, Bool.and_comm]

theorem and_fieldMask_eq_zero_iff (c : BitVec 32) {lo n : Nat} (h : lo + n ≤ 32) :
    c &&& fieldMask lo n = 0#32 ↔ (c.extractLsb' lo n).toNat = 0 := by
  rw [and_fieldMask_eq_bitsAt, ← BitVec.toNat_inj, bitsAt_toNat _ h]
  simp

theorem and_or_eq_zero_iff (c m m' : BitVec 32) : c &&& (m ||| m') = 0#32 ↔ c &&& m = 0#32 ∧ c &&& m' = 0#32 := by
  rw [BitVec.and_or_distrib_left, BitVec.or_eq_zero_iff]

theorem and_reservedN_eq_zero_iff (c : BitVec 32) : c &&& reservedN = 0#32 ↔ c.toNat / 2 ^ 8 % 2 ^ 24 = 0 := by
  rw [show reservedN = fieldMask 8 24 from rfl, and_fieldMask_eq_zero_iff c (by decide), extract_toNat]

theorem and_reservedC_eq_zero_iff (c : BitVec 32) : c &&& reservedC = 0#32 ↔ c.toNat / 2 ^ 11 % 2 ^ 1 = 0 := by
  rw [show reservedC = fieldMask 11 1 from rfl, and_fieldMask_eq_zero_iff c (by decide), extract_toNat]

theorem and_reservedI_eq_zero_iff (c : BitVec 32) :
    c &&& reservedI = 0#32 ↔ c.toNat / 2 ^ 11 % 2 ^ 1 = 0 ∧ c.toNat / 2 ^ 15 % 2 ^ 1 = 0 := by
  rw [show reservedI = fieldMask 11 1 ||| fieldMask 15 1 from rfl, and_or_eq_zero_iff,
    and_fieldMask_eq_zero_iff c (by decide), and_fieldMask_eq_zero_iff c (by decide), extract_toNat, extract_toNat]

theorem and_reservedR_eq_zero_iff (c : BitVec 32) :
    c &&& reservedR = 0#32 ↔
      (c.toNat / 2 ^ 11 % 2 ^ 1 = 0 ∧ c.toNat / 2 ^ 15 % 2 ^ 1 = 0) ∧ c.toNat / 2 ^ 19 % 2 ^ 13 = 0 := by
  rw [show reservedR = reservedI ||| fieldMask 19 13 from rfl, and_or_eq_zero_iff, and_reservedI_eq_zero_iff,
    and_fieldMask_eq_zero_iff c (by decide), extract_toNat]

theorem and_unusedRs1_eq_zero_iff (c : BitVec 32) : c &&& unusedRs1 = 0#32 ↔ rs1Field c = 0 := by
  rw [Fin.ext_iff]
  exact and_fieldMask_eq_zero_iff c (lo := 12) (n := 3) (by decide)

theorem and_unusedRs2_eq_zero_iff (c : BitVec 32) : c &&& unusedRs2 = 0#32 ↔ rs2Field c = 0 := by
  rw [Fin.ext_iff]
  exact and_fieldMask_eq_zero_iff c (lo := 16) (n := 3) (by decide)

theorem and_unusedRs1Rs2_eq_zero_iff (c : BitVec 32) :
    c &&& unusedRs1Rs2 = 0#32 ↔ rs1Field c = 0 ∧ rs2Field c = 0 := by
  rw [show unusedRs1Rs2 = unusedRs1 ||| unusedRs2 from rfl, and_or_eq_zero_iff, and_unusedRs1_eq_zero_iff,
    and_unusedRs2_eq_zero_iff]

theorem and_fieldMask_slotImm_eq_zero_iff (c : BitVec 32) :
    c &&& fieldMask 18 14 = 0#32 ↔ slotImmLegal (immField c) = true := by
  rw [and_fieldMask_eq_zero_iff c (by decide), extract_toNat, slotImmLegal, beq_iff_eq, ← BitVec.toNat_inj,
    extract_toNat, immField_toNat, BitVec.toNat_ofNat, Nat.zero_mod]
  omega

theorem and_unusedRs1Imm_eq_zero_iff (c : BitVec 32) :
    c &&& unusedRs1Imm = 0#32 ↔ rs1Field c = 0 ∧ slotImmLegal (immField c) = true := by
  rw [show unusedRs1Imm = unusedRs1 ||| fieldMask 18 14 from rfl, and_or_eq_zero_iff, and_unusedRs1_eq_zero_iff,
    and_fieldMask_slotImm_eq_zero_iff]

theorem and_unusedRdImm_eq_zero_iff (c : BitVec 32) :
    c &&& unusedRdImm = 0#32 ↔ rdField c = 0 ∧ slotImmLegal (immField c) = true := by
  have hrd : c &&& fieldMask 8 3 = 0#32 ↔ rdField c = 0 := by
    rw [Fin.ext_iff]
    exact and_fieldMask_eq_zero_iff c (by decide)
  rw [show unusedRdImm = fieldMask 8 3 ||| fieldMask 18 14 from rfl, and_or_eq_zero_iff, hrd,
    and_fieldMask_slotImm_eq_zero_iff]

end Sys2Proof
end

section
/-! PROOFS. The decoder and the encoder against the opcode table (R96 to R99): the decoder accepts a word as a command
exactly when the word matches the command's row and the command's operands are the word's fields. -/

namespace Sys2Proof
open Sys2Proof.Machine Sys2Proof.Reference Sys2Proof.Laws

/-! ### A command's row of the opcode table (R96) -/

/-- The reserved bits of the command's format (R91 to R94). -/
def Instr.reservedBits : Instr → BitVec 32
  | .nop | .setup | .encode | .decode => reservedN
  | .config _ _ _ => reservedC
  | .zero _ | .ldp _ | .ldq _ | .add _ _ _ | .sub _ _ _ | .xor _ _ _ | .or _ _ _ | .rol _ _ _ | .ror _ _ _
  | .low32 _ _ => reservedR
  | .ldi _ _ | .roli _ _ _ | .rori _ _ _ | .wld _ _ | .wst _ _ | .rds _ _ => reservedI

/-- The command's column "must be 0" of R96. -/
def Instr.unusedBits : Instr → BitVec 32
  | .nop | .setup | .encode | .decode | .config _ _ _ | .add _ _ _ | .sub _ _ _ | .xor _ _ _ | .or _ _ _
  | .rol _ _ _ | .ror _ _ _ | .roli _ _ _ | .rori _ _ _ => unusedNone
  | .zero _ | .ldp _ | .ldq _ => unusedRs1Rs2
  | .low32 _ _ => unusedRs2
  | .ldi _ _ | .rds _ _ => unusedRs1
  | .wld _ _ => unusedRs1Imm
  | .wst _ _ => unusedRdImm

/-- The row of the command's opcode: match and mask. -/
def Instr.row (i : Instr) : BitVec 32 × BitVec 32 :=
  (formatN i.opByte, i.reservedBits ||| i.unusedBits ||| fieldMask 0 8)

/-- The command of the same opcode whose operands are the fields of the word `c`. -/
def Instr.withFields (c : BitVec 32) : Instr → Instr
  | .nop => .nop
  | .config _ _ _ => .config (wselField c) (rField c) (bField c)
  | .setup => .setup
  | .encode => .encode
  | .decode => .decode
  | .zero _ => .zero (rdField c)
  | .ldi _ _ => .ldi (rdField c) (immField c)
  | .ldp _ => .ldp (rdField c)
  | .ldq _ => .ldq (rdField c)
  | .add _ _ _ => .add (rdField c) (rs1Field c) (rs2Field c)
  | .sub _ _ _ => .sub (rdField c) (rs1Field c) (rs2Field c)
  | .xor _ _ _ => .xor (rdField c) (rs1Field c) (rs2Field c)
  | .or _ _ _ => .or (rdField c) (rs1Field c) (rs2Field c)
  | .rol _ _ _ => .rol (rdField c) (rs1Field c) (rs2Field c)
  | .ror _ _ _ => .ror (rdField c) (rs1Field c) (rs2Field c)
  | .roli _ _ _ => .roli (rdField c) (rs1Field c) (immField c)
  | .rori _ _ _ => .rori (rdField c) (rs1Field c) (immField c)
  | .low32 _ _ => .low32 (rdField c) (rs1Field c)
  | .wld _ _ => .wld (rdField c) (immField c)
  | .wst _ _ => .wst (rs1Field c) (immField c)
  | .rds _ _ => .rds (rdField c) (immField c)

@[simp] theorem Instr.opByte_withFields (c : BitVec 32) (i : Instr) : (i.withFields c).opByte = i.opByte := by
  cases i <;> rfl

@[simp] theorem Instr.row_withFields (c : BitVec 32) (i : Instr) : (i.withFields c).row = i.row := by cases i <;> rfl

@[simp] theorem Instr.withFields_withFields (c : BitVec 32) (i : Instr) :
    (i.withFields c).withFields c = i.withFields c := by
  cases i <;> rfl

theorem Instr.row_mem_opcodeTable (i : Instr) : i.row ∈ opcodeTable := by
  cases i <;> simp only [Instr.row, Instr.opByte, Instr.reservedBits, Instr.unusedBits] <;> decide

/-- One command of each opcode, in the order of the map. -/
def Instr.forms : List Instr :=
  [.nop, .config 0 0 0, .setup, .encode, .decode, .zero 0, .ldi 0 0, .ldp 0, .ldq 0, .add 0 0 0, .sub 0 0 0, .xor 0 0 0,
    .or 0 0 0, .rol 0 0 0, .ror 0 0 0, .roli 0 0 0, .rori 0 0 0, .low32 0 0, .wld 0 0, .wst 0 0, .rds 0 0]

theorem opcodeTable_eq_map_row : opcodeTable = Instr.forms.map Instr.row := rfl

theorem exists_instr_of_mem_opcodeTable {row : BitVec 32 × BitVec 32} (h : row ∈ opcodeTable) :
    ∃ i : Instr, i.row = row := by
  rw [opcodeTable_eq_map_row] at h
  obtain ⟨i, -, hi⟩ := List.mem_map.mp h
  exact ⟨i, hi⟩

theorem formatN_inj {op op' : BitVec 8} : formatN op = formatN op' ↔ op = op' :=
  ⟨fun h => by simpa only [opField_formatN] using congrArg opField h, congrArg formatN⟩

theorem and_fieldMask_op (c : BitVec 32) : c &&& fieldMask 0 8 = formatN (opField c) := and_fieldMask_eq_bitsAt c 0 8

/-- A word agrees with an opcode byte under a mask that holds OP exactly when its OP is that byte and the mask's other
bits are 0 in it. -/
theorem and_or_fieldMask_op_eq_iff {c m : BitVec 32} {op : BitVec 8} (hm : m &&& fieldMask 0 8 = 0#32) :
    c &&& (m ||| fieldMask 0 8) = formatN op ↔ opField c = op ∧ c &&& m = 0#32 := by
  have hclear : formatN op &&& m = 0#32 := calc
    formatN op &&& m = formatN op &&& fieldMask 0 8 &&& m := by rw [and_fieldMask_op, opField_formatN]
    _ = 0#32 := by rw [BitVec.and_assoc, BitVec.and_comm _ m, hm, BitVec.and_zero]
  rw [BitVec.and_or_distrib_left, and_fieldMask_op]
  constructor
  · intro h
    have hop : formatN (opField c) = formatN op := by
      simpa only [BitVec.and_or_distrib_right, BitVec.and_assoc, hm, BitVec.and_zero, BitVec.zero_or, and_fieldMask_op,
        opField_formatN] using congrArg (· &&& fieldMask 0 8) h
    have hz : c &&& m = 0#32 := by
      simpa only [hop, BitVec.and_or_distrib_right, BitVec.and_assoc, BitVec.and_self, hclear, BitVec.or_zero]
        using congrArg (· &&& m) h
    exact ⟨formatN_inj.mp hop, hz⟩
  · rintro ⟨rfl, hz⟩
    rw [hz, BitVec.zero_or]

theorem matchesRow_row_iff (c : BitVec 32) (i : Instr) :
    MatchesRow c i.row ↔
      opField c = i.opByte ∧ (c &&& i.reservedBits = 0#32 ∧ c &&& i.unusedBits = 0#32) ∧
        (i.opByte = Op.config → wselField c ≠ 7#3) := by
  have hm : (i.reservedBits ||| i.unusedBits) &&& fieldMask 0 8 = 0#32 := by
    cases i <;> simp only [Instr.reservedBits, Instr.unusedBits] <;> decide
  have hop : formatN i.opByte = 0x00000001#32 ↔ i.opByte = Op.config := formatN_inj (op' := Op.config)
  simp only [MatchesRow, Instr.row, and_or_fieldMask_op_eq_iff hm, and_or_eq_zero_iff, hop, and_assoc]
  rfl

/-! ### The decoder (R97) -/

theorem accept_eq_ok_iff {c reserved unused : BitVec 32} {i j : Instr} :
    accept c reserved unused i = .ok j ↔ (c &&& reserved = 0#32 ∧ c &&& unused = 0#32) ∧ i = j := by
  by_cases hres : c &&& reserved = 0#32
  · by_cases hun : c &&& unused = 0#32 <;> simp [accept, hres, hun]
  · simp [accept, hres]

theorem decode_of_opField {c : BitVec 32} {i : Instr} (h : opField c = i.opByte) (hi : i.opByte ≠ Op.config) :
    decode c = accept c i.reservedBits i.unusedBits (i.withFields c) := by
  cases i with
  | config => exact absurd rfl hi
  | _ => rw [decode, h]; rfl

theorem decode_eq_ok_iff_of_config {c : BitVec 32} {i : Instr} (h : opField c = Op.config) :
    decode c = .ok i ↔
      c &&& reservedC = 0#32 ∧ wselField c ≠ 7#3 ∧ .config (wselField c) (rField c) (bField c) = i := by
  have hc : decode c = if c &&& reservedC ≠ 0#32 then .error .reservedBit
      else if wselLegal (wselField c) then .ok (.config (wselField c) (rField c) (bField c))
      else .error .widthSelect := by
    rw [decode, h]
    rfl
  rw [hc]
  by_cases hres : c &&& reservedC = 0#32
  · by_cases hwsel : wselField c = 7#3 <;> simp [hres, hwsel, wselLegal]
  · simp [hres]

/-- An opcode byte that no command has is reserved. -/
theorem decode_of_no_opcode {c : BitVec 32} (h : ∀ i : Instr, opField c ≠ i.opByte) :
    decode c = .error .reservedOpcode := by
  unfold decode
  exact (if_neg (h .nop)).trans <| (if_neg (h (.config 0 0 0))).trans <| (if_neg (h .setup)).trans <|
    (if_neg (h .encode)).trans <| (if_neg (h .decode)).trans <| (if_neg (h (.zero 0))).trans <|
    (if_neg (h (.ldi 0 0))).trans <| (if_neg (h (.ldp 0))).trans <| (if_neg (h (.ldq 0))).trans <|
    (if_neg (h (.add 0 0 0))).trans <| (if_neg (h (.sub 0 0 0))).trans <| (if_neg (h (.xor 0 0 0))).trans <|
    (if_neg (h (.or 0 0 0))).trans <| (if_neg (h (.rol 0 0 0))).trans <| (if_neg (h (.ror 0 0 0))).trans <|
    (if_neg (h (.roli 0 0 0))).trans <| (if_neg (h (.rori 0 0 0))).trans <| (if_neg (h (.low32 0 0))).trans <|
    (if_neg (h (.wld 0 0))).trans <| (if_neg (h (.wst 0 0))).trans <| if_neg (h (.rds 0 0))

theorem eq_config_of_opByte {i : Instr} (h : i.opByte = Op.config) : ∃ wsel r b, i = .config wsel r b := by
  cases i with
  | config wsel r b => exact ⟨wsel, r, b, rfl⟩
  | _ => cases h

theorem decode_eq_ok_iff_of_opField {c : BitVec 32} {i k : Instr} (hop : opField c = k.opByte) :
    decode c = .ok i ↔ MatchesRow c k.row ∧ k.withFields c = i := by
  rw [matchesRow_row_iff]
  by_cases hcfg : k.opByte = Op.config
  · obtain ⟨wsel, r, b, rfl⟩ := eq_config_of_opByte hcfg
    rw [decode_eq_ok_iff_of_config hop]
    simp [hop, hcfg, Instr.reservedBits, Instr.unusedBits, unusedNone, Instr.withFields, and_assoc]
  · rw [decode_of_opField hop hcfg, accept_eq_ok_iff]
    simp [hop, hcfg]

/-- The decoder accepts a word as a command exactly when the word matches the command's row of the table and the
command's operands are the word's fields. -/
theorem decode_eq_ok_iff {c : BitVec 32} {i : Instr} :
    decode c = .ok i ↔ MatchesRow c i.row ∧ i.withFields c = i := by
  constructor
  · intro h
    by_cases hk : ∃ k : Instr, opField c = k.opByte
    · obtain ⟨k, hk⟩ := hk
      obtain ⟨hm, rfl⟩ := (decode_eq_ok_iff_of_opField hk).mp h
      exact ⟨by rwa [Instr.row_withFields], Instr.withFields_withFields c k⟩
    · rw [decode_of_no_opcode (not_exists.mp hk)] at h
      cases h
  · rintro ⟨hm, hf⟩
    obtain ⟨hop, -⟩ := (matchesRow_row_iff c i).mp hm
    exact (decode_eq_ok_iff_of_opField hop).mpr ⟨hm, hf⟩

/-! ### A command's word matches its row and holds its operands -/

theorem opField_encode (i : Instr) : opField (encode i) = i.opByte := by
  cases i with
  | nop | setup | encode | decode => exact opField_formatN _
  | config => exact opField_formatC _ _ _ _
  | zero | ldp | ldq | add | sub | xor | or | rol | ror | low32 => exact opField_formatR _ _ _ _
  | ldi | roli | rori | wld | wst | rds => exact opField_formatI _ _ _ _

theorem formatN_and_reservedN (op : BitVec 8) : formatN op &&& reservedN = 0#32 := by
  rw [and_reservedN_eq_zero_iff, formatN_toNat]
  omega

theorem formatC_and_reservedC (op : BitVec 8) (wsel : BitVec 3) (r : BitVec 8) (b : BitVec 12) :
    formatC op wsel r b &&& reservedC = 0#32 := by
  rw [and_reservedC_eq_zero_iff, formatC_toNat]
  omega

theorem formatR_and_reservedR (op : BitVec 8) (rd rs1 rs2 : BitVec 3) :
    formatR op rd rs1 rs2 &&& reservedR = 0#32 := by
  rw [and_reservedR_eq_zero_iff, formatR_toNat]
  omega

theorem formatI_and_reservedI (op : BitVec 8) (rd rs1 : BitVec 3) (imm : BitVec 16) :
    formatI op rd rs1 imm &&& reservedI = 0#32 := by
  rw [and_reservedI_eq_zero_iff, formatI_toNat]
  omega

theorem encode_and_reservedBits (i : Instr) : encode i &&& i.reservedBits = 0#32 := by
  cases i with
  | nop | setup | encode | decode => exact formatN_and_reservedN _
  | config => exact formatC_and_reservedC _ _ _ _
  | zero | ldp | ldq | add | sub | xor | or | rol | ror | low32 => exact formatR_and_reservedR _ _ _ _
  | ldi | roli | rori | wld | wst | rds => exact formatI_and_reservedI _ _ _ _

theorem encode_and_unusedBits {i : Instr} (hw : i.wellFormed = true) : encode i &&& i.unusedBits = 0#32 := by
  cases i with
  | nop | setup | encode | decode | config | add | sub | xor | or | rol | ror | roli | rori => exact BitVec.and_zero
  | zero | ldp | ldq =>
    exact (and_unusedRs1Rs2_eq_zero_iff _).mpr ⟨rs1Field_formatR _ _ _ _, rs2Field_formatR _ _ _ _⟩
  | low32 => exact (and_unusedRs2_eq_zero_iff _).mpr (rs2Field_formatR _ _ _ _)
  | ldi | rds => exact (and_unusedRs1_eq_zero_iff _).mpr (rs1Field_formatI _ _ _ _)
  | wld => exact (and_unusedRs1Imm_eq_zero_iff _).mpr ⟨rs1Field_formatI _ _ _ _, by rwa [encode, immField_formatI]⟩
  | wst => exact (and_unusedRdImm_eq_zero_iff _).mpr ⟨rdField_formatI _ _ _ _, by rwa [encode, immField_formatI]⟩

theorem withFields_encode (i : Instr) : i.withFields (encode i) = i := by
  cases i <;> simp [encode, Instr.withFields]

theorem matchesRow_encode {i : Instr} (hw : i.wellFormed = true) : MatchesRow (encode i) i.row := by
  refine (matchesRow_row_iff _ i).mpr
    ⟨opField_encode i, ⟨encode_and_reservedBits i, encode_and_unusedBits hw⟩, fun h => ?_⟩
  obtain ⟨wsel, r, b, rfl⟩ := eq_config_of_opByte h
  rw [encode, wselField_formatC]
  exact bne_iff_ne.mp hw

/-- Settles O2: a command's word matches the command's row, and its fields are the operands. -/
theorem decodeOfEncodeIsTheCommand : Obligations.DecodeOfEncodeIsTheCommand :=
  fun i hw => decode_eq_ok_iff.mpr ⟨matchesRow_encode hw, withFields_encode i⟩

/-! ### A word that matches a row is that command's word -/

section
variable {c : BitVec 32} {op : BitVec 8}

theorem formatN_eq_of_fields (hop : opField c = op) (h : c &&& reservedN = 0#32) : formatN op = c := by
  apply BitVec.eq_of_toNat_eq
  rw [and_reservedN_eq_zero_iff] at h
  rw [formatN_toNat, ← hop, opField_toNat]
  omega

theorem formatC_eq_of_fields (hop : opField c = op) (h : c &&& reservedC = 0#32) :
    formatC op (wselField c) (rField c) (bField c) = c := by
  apply BitVec.eq_of_toNat_eq
  rw [and_reservedC_eq_zero_iff] at h
  rw [formatC_toNat, ← hop, opField_toNat, wselField_toNat, rField_toNat, bField_toNat]
  omega

theorem formatR_eq_of_fields {rs1 rs2 : Reg} (hop : opField c = op) (hrs1 : rs1Field c = rs1) (hrs2 : rs2Field c = rs2)
    (h : c &&& reservedR = 0#32) : formatR op (regBits (rdField c)) (regBits rs1) (regBits rs2) = c := by
  apply BitVec.eq_of_toNat_eq
  rw [and_reservedR_eq_zero_iff] at h
  rw [formatR_toNat, regBits_toNat, regBits_toNat, regBits_toNat, ← hop, ← hrs1, ← hrs2, opField_toNat, rdField_val,
    rs1Field_val, rs2Field_val]
  omega

theorem formatI_eq_of_fields {rd rs1 : Reg} (hop : opField c = op) (hrd : rdField c = rd) (hrs1 : rs1Field c = rs1)
    (h : c &&& reservedI = 0#32) : formatI op (regBits rd) (regBits rs1) (immField c) = c := by
  apply BitVec.eq_of_toNat_eq
  rw [and_reservedI_eq_zero_iff] at h
  rw [formatI_toNat, regBits_toNat, regBits_toNat, ← hop, ← hrd, ← hrs1, opField_toNat, rdField_val, rs1Field_val,
    immField_toNat]
  omega

end

theorem encode_withFields {c : BitVec 32} {i : Instr} (h : MatchesRow c i.row) : encode (i.withFields c) = c := by
  obtain ⟨hop, ⟨hres, hun⟩, -⟩ := (matchesRow_row_iff c i).mp h
  cases i with
  | nop | setup | encode | decode => exact formatN_eq_of_fields hop hres
  | config => exact formatC_eq_of_fields hop hres
  | add | sub | xor | or | rol | ror => exact formatR_eq_of_fields hop rfl rfl hres
  | zero | ldp | ldq =>
    obtain ⟨hrs1, hrs2⟩ := (and_unusedRs1Rs2_eq_zero_iff c).mp hun
    exact formatR_eq_of_fields (rs1 := 0) (rs2 := 0) hop hrs1 hrs2 hres
  | low32 => exact formatR_eq_of_fields (rs2 := 0) hop rfl ((and_unusedRs2_eq_zero_iff c).mp hun) hres
  | roli | rori => exact formatI_eq_of_fields hop rfl rfl hres
  | ldi | rds => exact formatI_eq_of_fields (rs1 := 0) hop rfl ((and_unusedRs1_eq_zero_iff c).mp hun) hres
  | wld =>
    obtain ⟨hrs1, -⟩ := (and_unusedRs1Imm_eq_zero_iff c).mp hun
    exact formatI_eq_of_fields (rs1 := 0) hop rfl hrs1 hres
  | wst =>
    obtain ⟨hrd, -⟩ := (and_unusedRdImm_eq_zero_iff c).mp hun
    exact formatI_eq_of_fields (rd := 0) hop hrd rfl hres

theorem wellFormed_withFields {c : BitVec 32} {i : Instr} (h : MatchesRow c i.row) :
    (i.withFields c).wellFormed = true := by
  obtain ⟨-, ⟨-, hun⟩, hwsel⟩ := (matchesRow_row_iff c i).mp h
  cases i with
  | config => exact bne_iff_ne.mpr (hwsel rfl)
  | wld => exact ((and_unusedRs1Imm_eq_zero_iff c).mp hun).2
  | wst => exact ((and_unusedRdImm_eq_zero_iff c).mp hun).2
  | _ => rfl

/-- Settles O3: a word that matches a row is the word of the command its fields make. -/
theorem encodeOfDecodeIsTheWord : Obligations.EncodeOfDecodeIsTheWord := by
  intro c i hd
  obtain ⟨hm, hf⟩ := decode_eq_ok_iff.mp hd
  rw [← hf]
  exact ⟨encode_withFields hm, wellFormed_withFields hm⟩

/-- Settles O4: the rows of the table are the rows of the commands. -/
theorem decodeAcceptsExactlyTheOpcodeTable : Obligations.DecodeAcceptsExactlyTheOpcodeTable := by
  intro c op
  constructor
  · rintro ⟨i, hd, rfl⟩
    obtain ⟨hm, -⟩ := decode_eq_ok_iff.mp hd
    exact ⟨i.row, i.row_mem_opcodeTable, opField_formatN _, hm⟩
  · rintro ⟨row, hrow, rfl, hm⟩
    obtain ⟨i, rfl⟩ := exists_instr_of_mem_opcodeTable hrow
    refine ⟨i.withFields c, decode_eq_ok_iff.mpr ⟨?_, Instr.withFields_withFields c i⟩, ?_⟩
    · rwa [Instr.row_withFields]
    · rw [Instr.opByte_withFields]
      exact (opField_formatN _).symm

/-- Settles O5, by running the decoder. -/
theorem specWordsDecode : Obligations.SpecWordsDecode :=
  ⟨rfl, rfl, rfl, rfl, rfl, rfl, rfl, rfl, rfl, rfl⟩

end Sys2Proof
end

section
/-! PROOFS. Illegal words, the assembler, and the pseudo-instructions (R97, R99, R100, R283). -/

namespace Sys2Proof.Machine
open Sys2Proof.Reference

/-! ### Illegal words (R97, R283) -/

/-- Settles O8: by the opcode table the decoder rejects the word, and the engine's turn raises ILLEGAL. -/
theorem illegalWordsCompleteWithIllegal : Obligations.IllegalWordsCompleteWithIllegal := by
  intro s c hp hno
  cases hd : decode c with
  | ok i =>
    obtain ⟨row, hrow, -, hm⟩ := (decodeAcceptsExactlyTheOpcodeTable c i.opByte).mp ⟨i, hd, rfl⟩
    exact absurd hm (hno row hrow)
  | error e =>
    have hturn : ∀ q : State, q.pend = some c → engineTurn q = .next (failed q .illegal (c.extractLsb' 0 8)) :=
      fun q hq => (engineTurn_pending hq).trans (complete_error q hd)
    exact ⟨fun he => (step_engine he).trans (hturn s hp), fun _ he => (step_complete he).trans (hturn _ hp)⟩

/-! ### The assembler (R99) -/

@[simp] theorem asmReg_val (r : Reg) : asmReg r.val = some r := dif_pos r.isLt

theorem wselLegal_of_asmWidth {w : Nat} {wsel : BitVec 3} (h : asmWidth w = some wsel) : wselLegal wsel = true := by
  unfold asmWidth at h
  split_ifs at h <;> cases h <;> rfl

theorem slotImmLegal_of_asmSlot {be : Bool} {slot : Nat} {imm : BitVec 16} (h : asmSlot be slot = some imm) :
    slotImmLegal imm = true := by
  unfold asmSlot at h
  split_ifs at h with hslot
  cases h
  interval_cases slot <;> cases be <;> rfl

theorem wellFormed_of_assemble {line : AsmLine} {i : Instr} (h : assemble line = some i) : i.wellFormed = true := by
  cases line
  all_goals
    simp only [assemble, Option.bind_eq_bind, Option.bind_eq_some_iff, Option.pure_def, Option.some.injEq] at h
  case nop | setup | encode | decode =>
    subst h
    rfl
  case config =>
    obtain ⟨wsel, hwsel, -, -, -, -, rfl⟩ := h
    exact wselLegal_of_asmWidth hwsel
  case wld | wst =>
    obtain ⟨-, -, imm, himm, rfl⟩ := h
    exact slotImmLegal_of_asmSlot himm
  case zero | ldp | ldq | clr =>
    obtain ⟨_, -, rfl⟩ := h
    rfl
  case ldi | low32 | rds =>
    obtain ⟨_, -, _, -, rfl⟩ := h
    rfl
  case add | sub | xor | or | rol | ror | roli | rori | mov =>
    obtain ⟨_, -, _, -, _, -, rfl⟩ := h
    rfl

/-- Settles O6: each operand's check makes its field legal; the examples run. -/
theorem assembledLinesAreLegalCommands : Obligations.AssembledLinesAreLegalCommands :=
  ⟨fun _ _ h => wellFormed_of_assemble h, rfl, rfl, rfl⟩

/-! ### Word commands -/

theorem word_toNat {s : State} (h : RegistersHoldWords s) (r : Reg) : (s.word r).toNat = val s r :=
  (toWord_toNat (s.x.get r)).trans (Nat.mod_eq_of_lt (h r))

theorem writeWord_eq_wrote {w n : Nat} (op : BitVec 8) (rd : Reg) {v : Word w} (s : State) (h : v.toNat = n) :
    writeWord op rd v s = .next (wrote s op rd n) := by
  have hcell : v.toCell = BitVec.ofNat 128 n := by rw [← h, BitVec.ofNat_toNat]; rfl
  rw [writeWord_eq, State.setWord, hcell]
  rfl

/-- A command that only checks the configuration and then writes one word is a word command. -/
theorem wordCommand_of_exec {i : Instr} {op : BitVec 8} {rd : Reg} {n : State → Nat} (v : (s : State) → Word s.w)
    (hexec : ∀ s, exec i s = whenConfigured op s (writeWord op rd (v s) s))
    (hv : ∀ s, RegistersHoldWords s → (v s).toNat = n s) : WordCommand i op rd n := by
  intro s hs
  rw [hexec, writeWord_eq_wrote op rd s (hv s hs)]
  exact ⟨whenConfigured_of_configured _, whenConfigured_of_uncfg _⟩

theorem orW_word_self_toNat {s : State} (h : RegistersHoldWords s) (r : Reg) :
    (orW (s.word r) (s.word r)).toNat = val s r := by
  rw [orW, BitVec.or_self, word_toNat h]

/-- Settles O37: MOV is OR of a register with itself, and CLR is ZERO. -/
theorem movAndClrAreExact : Obligations.MovAndClrAreExact := by
  intro d a
  refine ⟨.or d a a, .zero d, by simp [assemble], by simp [assemble], ?_, ?_⟩
  · exact wordCommand_of_exec _ (fun _ => rfl) fun _ hs => orW_word_self_toNat hs a
  · exact wordCommand_of_exec _ (fun _ => rfl) fun _ _ => rfl

end Sys2Proof.Machine
end

section
/-! PROOFS. The constant ROM (R121): a constant is the odd integer nearest to its number, because it is odd and at most 1
away. Every width's constant is compared with the 128-bit one, and only that one with the number itself. -/

namespace Sys2Proof.Machine

/-- Two odd integers that differ are 2 apart, so the one within 1 of a number is the nearest. -/
theorem abs_sub_le_abs_sub_of_odd {p m : ℤ} {x : ℝ} (hp : p % 2 = 1) (hm : m % 2 = 1) (hx : |(p : ℝ) - x| ≤ 1) :
    |(p : ℝ) - x| ≤ |(m : ℝ) - x| := by
  by_cases hpm : p = m
  · rw [hpm]
  · have hint : 2 ≤ |p - m| := by
      rw [le_abs]
      omega
    have hreal : (2 : ℝ) ≤ |(p : ℝ) - m| := by exact_mod_cast hint
    have htri : |(p : ℝ) - m| ≤ |(p : ℝ) - x| + |(m : ℝ) - x| := by
      rw [abs_sub_comm (m : ℝ) x]
      exact abs_sub_le (p : ℝ) x m
    linarith

/-- A constant of `w` bits is within 1 of `x * 2^w` if its distance to the 128-bit constant of `x`, in units of the last
of 128 bits, leaves room for that constant's own error. -/
theorem abs_sub_le_one_of_cut {p c w : ℕ} {x : ℝ} (hw : w ≤ 128) (hx : |(c : ℝ) - x * 2 ^ 128| ≤ 1)
    (hcut : |(p * 2 ^ (128 - w) : ℤ) - c| + 1 ≤ 2 ^ (128 - w)) : |(p : ℝ) - x * 2 ^ w| ≤ 1 := by
  have hpow : (2 : ℝ) ^ w * 2 ^ (128 - w) = 2 ^ 128 := by rw [← pow_add, Nat.add_sub_cancel' hw]
  have hcutReal : |(p * 2 ^ (128 - w) : ℝ) - c| + 1 ≤ 2 ^ (128 - w) := by exact_mod_cast hcut
  have hscaled : |(p : ℝ) - x * 2 ^ w| * 2 ^ (128 - w) ≤ 1 * 2 ^ (128 - w) := calc
    |(p : ℝ) - x * 2 ^ w| * 2 ^ (128 - w) = |p * 2 ^ (128 - w) - x * 2 ^ 128| := by
      rw [← hpow, ← mul_assoc, ← sub_mul, abs_mul, abs_of_pos (a := (2 : ℝ) ^ (128 - w)) (by positivity)]
    _ ≤ |p * 2 ^ (128 - w) - (c : ℝ)| + |(c : ℝ) - x * 2 ^ 128| := abs_sub_le _ _ _
    _ ≤ 1 * 2 ^ (128 - w) := by linarith
  exact le_of_mul_le_mul_right hscaled (by positivity)

/-- The exponential series at 1, cut after 35 terms. -/
theorem abs_exp_one_sub_sum_le :
    |Real.exp 1 - ∑ m ∈ Finset.range 35, 1 / (m.factorial : ℝ)| ≤ 36 / (Nat.factorial 35 * 35) := by
  have hbound := Real.exp_bound (x := 1) (n := 35) (abs_one.le) (by decide)
  simpa only [one_pow, abs_one, one_mul, Nat.succ_eq_add_one, Nat.reduceAdd, Nat.cast_ofNat] using hbound

/-- 35 terms of the series reach the last of 128 bits. -/
theorem abs_romP_w128_sub_le_one : |(romP .w128 : ℝ) - (Real.exp 1 - 2) * 2 ^ 128| ≤ 1 := by
  have hlow : (romP .w128 - 1 : ℝ) / 2 ^ 128 + 2 + 36 / (Nat.factorial 35 * 35) ≤
      ∑ m ∈ Finset.range 35, 1 / (m.factorial : ℝ) := by
    norm_num [Finset.sum_range_succ, Nat.factorial, romP]
  have hhigh : ∑ m ∈ Finset.range 35, 1 / (m.factorial : ℝ) + 36 / (Nat.factorial 35 * 35) ≤
      (romP .w128 + 1 : ℝ) / 2 ^ 128 + 2 := by
    norm_num [Finset.sum_range_succ, Nat.factorial, romP]
  have hseries := abs_exp_one_sub_sum_le
  rw [abs_le] at hseries ⊢
  constructor <;> linarith

/-- `√5` lies between the numbers whose squares bracket 5. -/
theorem abs_romQ_w128_sub_le_one : |(romQ .w128 : ℝ) - ((1 + Real.sqrt 5) / 2 - 1) * 2 ^ 128| ≤ 1 := by
  have hlow : (2 ^ 128 + 2 * romQ .w128 - 2 : ℝ) / 2 ^ 128 ≤ Real.sqrt 5 :=
    Real.le_sqrt_of_sq_le (by norm_num [romQ])
  have hhigh : Real.sqrt 5 ≤ (2 ^ 128 + 2 * romQ .w128 + 2 : ℝ) / 2 ^ 128 :=
    Real.sqrt_le_iff.mpr ⟨by positivity, by norm_num [romQ]⟩
  rw [div_le_iff₀ (by positivity)] at hlow
  rw [le_div_iff₀ (by positivity)] at hhigh
  rw [abs_le]
  constructor <;> linarith

theorem romP_odd (wd : Width) : romP wd % 2 = 1 := by cases wd <;> rfl

theorem romQ_odd (wd : Width) : romQ wd % 2 = 1 := by cases wd <;> rfl

/-- The ROM's Pw are the 128-bit constant cut to `w` bits and made odd. -/
theorem abs_romP_cut (wd : Width) :
    |(romP wd * 2 ^ (128 - widthBits wd) : ℤ) - romP .w128| + 1 ≤ 2 ^ (128 - widthBits wd) := by
  cases wd <;> decide

/-- The ROM's Qw are the 128-bit constant cut to `w` bits and made odd. -/
theorem abs_romQ_cut (wd : Width) :
    |(romQ wd * 2 ^ (128 - widthBits wd) : ℤ) - romQ .w128| + 1 ≤ 2 ^ (128 - widthBits wd) := by
  cases wd <;> decide

/-- Settles O29: Pw is odd and within 1 of `(e - 2) * 2^w`. -/
theorem romPIsTheNearestOddInteger : Obligations.RomPIsTheNearestOddInteger := by
  intro wd
  refine ⟨romP_odd wd, fun m hm => ?_⟩
  have hnear := abs_sub_le_one_of_cut (widthBits_le wd) abs_romP_w128_sub_le_one (abs_romP_cut wd)
  exact abs_sub_le_abs_sub_of_odd (p := romP wd) (by exact_mod_cast romP_odd wd) hm (by exact_mod_cast hnear)

/-- Settles O30: Qw is odd and within 1 of `(phi - 1) * 2^w`. -/
theorem romQIsTheNearestOddInteger : Obligations.RomQIsTheNearestOddInteger := by
  intro wd
  refine ⟨romQ_odd wd, fun m hm => ?_⟩
  have hnear := abs_sub_le_one_of_cut (widthBits_le wd) abs_romQ_w128_sub_le_one (abs_romQ_cut wd)
  exact abs_sub_le_abs_sub_of_odd (p := romQ wd) (by exact_mod_cast romQ_odd wd) hm (by exact_mod_cast hnear)

end Sys2Proof.Machine
end

section
/-! PROOFS. The word primitives: their laws, and what each computes on numbers (R122 to R128, R133, R136). -/

namespace Sys2Proof.Machine
open Sys2Proof.Reference

variable {w : Nat}

/-! ### The laws (R136) -/

theorem rotlW_eq_rotateLeft (v : Word w) (k : Nat) : rotlW v k = v.rotateLeft k := rfl

theorem rotrW_eq_rotateRight (v : Word w) (k : Nat) : rotrW v k = v.rotateRight k := rfl

theorem rotlW_width (v : Word w) : rotlW v w = v := by
  rw [rotlW, Nat.mod_self, BitVec.shiftLeft_zero, Nat.sub_zero, BitVec.ushiftRight_eq_zero (le_refl w), BitVec.or_zero]

theorem rotlW_rotrW (v : Word w) (k : Nat) : rotlW (rotrW v k) k = v := by
  ext i hi
  have hk : k % w < w := Nat.mod_lt k (by omega)
  rw [rotlW_eq_rotateLeft, rotrW_eq_rotateRight, BitVec.getElem_rotateLeft]
  split
  · rw [BitVec.getElem_rotateRight, dif_neg (by omega)]
    congr 1
    omega
  · rw [BitVec.getElem_rotateRight, dif_pos (by omega)]
    congr 1
    omega

/-- Words are finitely many, so the left rotation, onto by `rotlW_rotrW`, is one to one. -/
theorem rotrW_rotlW (v : Word w) (k : Nat) : rotrW (rotlW v k) k = v := by
  have hsurj : Function.Surjective fun x : Word w => rotlW x k := fun x => ⟨rotrW x k, rotlW_rotrW x k⟩
  exact Finite.injective_iff_surjective.mpr hsurj (rotlW_rotrW (rotlW v k) k)

theorem subW_addW (x y : Word w) : subW (addW x y) y = x := by
  rw [subW_eq_sub]
  exact BitVec.add_sub_cancel x y

theorem addW_subW (x y : Word w) : addW (subW x y) y = x := by
  rw [subW_eq_sub]
  exact BitVec.sub_add_cancel x y

theorem xorW_xorW (x y : Word w) : xorW (xorW x y) y = x := by
  rw [xorW, xorW, BitVec.xor_assoc, BitVec.xor_self, BitVec.xor_zero]

theorem addW_allOnes_one (w : Nat) : addW (BitVec.allOnes w) 1 = 0 := by
  rw [addW, ← BitVec.neg_one_eq_allOnes]
  exact BitVec.add_left_neg 1#w

/-! ### The primitives on numbers -/

theorem subW_toNat (a b : Word w) : (subW a b).toNat = (a.toNat + 2 ^ w - b.toNat) % 2 ^ w := by
  rw [subW_eq_sub, BitVec.toNat_sub]
  have hb := b.isLt
  congr 1
  omega

theorem subW_toNat_eq_sub (a b : Word w) : (subW a b).toNat = Reference.sub w a.toNat b.toNat := by
  have hcompl : (~~~b).toNat = (2 ^ w - 1) ^^^ b.toNat := by
    rw [← BitVec.allOnes_xor, BitVec.toNat_xor, BitVec.toNat_allOnes]
  rw [subW, BitVec.toNat_add, BitVec.toNat_add, hcompl, Reference.sub, Nat.mod_add_mod]
  exact Nat.add_mod_mod ..

theorem xorW_toNat (a b : Word w) : (xorW a b).toNat = a.toNat ^^^ b.toNat := BitVec.toNat_xor a b

theorem orW_toNat (a b : Word w) : (orW a b).toNat = a.toNat ||| b.toNat := BitVec.toNat_or a b

theorem rotlW_toNat (v : Word w) (k : Nat) : (rotlW v k).toNat = rotl w v.toNat k := by
  rw [rotlW, BitVec.toNat_or, BitVec.toNat_shiftLeft, BitVec.toNat_ushiftRight, Nat.shiftLeft_eq,
    Nat.shiftRight_eq_div_pow, rotl]

theorem rotrW_toNat (v : Word w) (k : Nat) : (rotrW v k).toNat = rotr w v.toNat k := by
  rw [rotrW, BitVec.toNat_or, BitVec.toNat_shiftLeft, BitVec.toNat_ushiftRight, Nat.shiftLeft_eq,
    Nat.shiftRight_eq_div_pow, rotr]

theorem rotamt_eq (y : Word w) : Machine.rotamt y = Reference.rotamt w y.toNat := rfl

theorem fromSmall_toNat (w n : Nat) : (fromSmall w n).toNat = n % 2 ^ w := BitVec.toNat_ofNat n w

theorem fromSmall_low32_toNat (v : Word w) : (fromSmall w (low32 v)).toNat = v.toNat % 2 ^ 32 := by
  rw [fromSmall_toNat]
  exact Nat.mod_eq_of_lt ((Nat.mod_le _ _).trans_lt v.isLt)

/-! ### The constants of the current width (R121) -/

theorem magic_widthBits (wd : Width) : magic (widthBits wd) = (romP wd, romQ wd) := by cases wd <;> rfl

theorem romP_lt (wd : Width) : romP wd < 2 ^ widthBits wd := by cases wd <;> decide

theorem romQ_lt (wd : Width) : romQ wd < 2 ^ widthBits wd := by cases wd <;> decide

theorem magicP_toNat (s : State) : s.magicP.toNat = (magic s.w).1 := by
  rw [State.magicP, BitVec.toNat_ofNat, State.w, magic_widthBits]
  exact Nat.mod_eq_of_lt (romP_lt s.cfgWsel)

theorem magicQ_toNat (s : State) : s.magicQ.toNat = (magic s.w).2 := by
  rw [State.magicQ, BitVec.toNat_ofNat, State.w, magic_widthBits]
  exact Nat.mod_eq_of_lt (romQ_lt s.cfgWsel)

end Sys2Proof.Machine
end

section
/-! PROOFS. The statements about the primitives and about the word commands that write a register from constants and
registers: each command is its primitive on the numbers of its sources (R136, R138 to R149, R152 to R154). -/

namespace Sys2Proof.Machine
open Sys2Proof.Reference

/-- Settles O31: one law after the other. -/
theorem wordUnitLaws : Obligations.WordUnitLaws := fun w x y k =>
  ⟨rotlW_width x, rotlW_rotrW x k, rotrW_rotlW x k, subW_addW x y, addW_subW x y, xorW_xorW x y, addW_allOnes_one w⟩

/-- Settles O33: each load's word is its constant's number. -/
theorem loadCommandsWriteTheirConstant : Obligations.LoadCommandsWriteTheirConstant :=
  ⟨fun _ => wordCommand_of_exec _ (fun _ => rfl) fun _ _ => rfl,
    fun _ imm => wordCommand_of_exec _ (fun _ => rfl) fun s _ => fromSmall_toNat s.w imm.toNat,
    fun _ => wordCommand_of_exec _ (fun _ => rfl) fun s _ => magicP_toNat s,
    fun _ => wordCommand_of_exec _ (fun _ => rfl) fun s _ => magicQ_toNat s⟩

/-- Settles O34: the sum modulo `2^w`, and both forms of the difference. -/
theorem addAndSubAreModular : Obligations.AddAndSubAreModular := by
  refine ⟨fun d a b => wordCommand_of_exec _ (fun _ => rfl) fun s hs => ?_,
    fun d a b => wordCommand_of_exec _ (fun _ => rfl) fun s hs => ?_,
    fun d a b => wordCommand_of_exec _ (fun _ => rfl) fun s hs => ?_⟩
  · rw [addW_toNat, word_toNat hs, word_toNat hs]
  · rw [subW_toNat_eq_sub, word_toNat hs, word_toNat hs]
  · rw [subW_toNat, word_toNat hs, word_toNat hs]

/-- Settles O35: the bitwise operations of the sources' numbers. -/
theorem xorAndOrAreBitwise : Obligations.XorAndOrAreBitwise := by
  refine ⟨fun d a b => wordCommand_of_exec _ (fun _ => rfl) fun s hs => ?_,
    fun d a b => wordCommand_of_exec _ (fun _ => rfl) fun s hs => ?_⟩
  · rw [xorW_toNat, word_toNat hs, word_toNat hs]
  · rw [orW_toNat, word_toNat hs, word_toNat hs]

/-- Settles O36: the rotations by the amount that the second source's number gives. -/
theorem rotatesByARegisterAmount : Obligations.RotatesByARegisterAmount := by
  refine ⟨fun d a b => wordCommand_of_exec _ (fun _ => rfl) fun s hs => ?_,
    fun d a b => wordCommand_of_exec _ (fun _ => rfl) fun s hs => ?_⟩
  · rw [rotlW_toNat, rotamt_eq, word_toNat hs, word_toNat hs]
  · rw [rotrW_toNat, rotamt_eq, word_toNat hs, word_toNat hs]

/-- Settles O38: the rotations by the immediate. -/
theorem rotatesByAConstantAmount : Obligations.RotatesByAConstantAmount := by
  refine ⟨fun d a imm => wordCommand_of_exec _ (fun _ => rfl) fun s hs => ?_,
    fun d a imm => wordCommand_of_exec _ (fun _ => rfl) fun s hs => ?_⟩
  · rw [rotlW_toNat, word_toNat hs]
  · rw [rotrW_toNat, word_toNat hs]

/-- Settles O39: the low 32 bits of a word fit the word. -/
theorem low32KeepsTheLowBits : Obligations.Low32KeepsTheLowBits := fun _ a =>
  wordCommand_of_exec _ (fun _ => rfl) fun s hs => by rw [fromSmall_low32_toNat, word_toNat hs]

end Sys2Proof.Machine
end

section
/-! PROOFS. Words and their bytes: both byte orders as numbers, and a word given back by its bytes (R129 to R132). -/

namespace Sys2Proof.Machine
open Sys2Proof.Reference

/-! ### Bytes as a number -/

theorem leNumber_zero (f : Nat → Byte) : leNumber 0 f = 0 := rfl

/-- The least significant byte first. -/
theorem leNumber_succ_low (n : Nat) (f : Nat → Byte) :
    leNumber (n + 1) f = (f 0).toNat + 256 * leNumber n fun k => f (k + 1) := by
  have hshift (k : Nat) : (f (k + 1)).toNat * 256 ^ (k + 1) = 256 * ((f (k + 1)).toNat * 256 ^ k) := by ring
  simp only [leNumber, List.range_succ_eq_map, List.map_cons, List.map_map, List.sum_cons, pow_zero, mul_one,
    Function.comp_def, Nat.succ_eq_add_one, hshift, List.sum_map_mul_left]

/-- The most significant byte last. -/
theorem leNumber_succ_high (n : Nat) (f : Nat → Byte) :
    leNumber (n + 1) f = leNumber n f + (f n).toNat * 256 ^ n := by
  simp [leNumber, List.range_succ]

theorem leNumber_lt (n : Nat) (f : Nat → Byte) : leNumber n f < 256 ^ n := by
  induction n with
  | zero => exact Nat.one_pos
  | succ n ih =>
    have hbyte : (f n).toNat * 256 ^ n ≤ 255 * 256 ^ n := Nat.mul_le_mul_right _ (Nat.le_of_lt_succ (f n).isLt)
    rw [leNumber_succ_high, pow_succ]
    omega

/-- The digits of a number below `256^n` give it back. -/
theorem leNumber_digit (v n : Nat) : leNumber n (digit v) = v % 256 ^ n := by
  induction n with
  | zero => rw [leNumber_zero, pow_zero, Nat.mod_one]
  | succ n ih => rw [leNumber_succ_high, ih, Nat.mod_pow_succ, digit, BitVec.toNat_ofNat, Nat.mul_comm]

theorem bytesToNat_map_range (n : Nat) (f : Nat → Byte) : bytesToNat ((List.range n).map f) = leNumber n f := by
  induction n generalizing f with
  | zero => rfl
  | succ n ih =>
    rw [leNumber_succ_low, ← ih, List.range_succ_eq_map, List.map_cons, List.map_map, bytesToNat]
    rfl

theorem reverse_map_range {α : Type} (n : Nat) (f : Nat → α) :
    ((List.range n).map f).reverse = (List.range n).map fun k => f (n - 1 - k) := by
  rw [← List.map_reverse, List.range_eq_range', List.reverse_range', List.map_map, ← List.range_eq_range']
  simp only [Function.comp_def, Nat.zero_add]

/-- Big-endian is little-endian on the bytes in reverse. -/
theorem beNumber_eq_leNumber (n : Nat) (f : Nat → Byte) : beNumber n f = leNumber n fun k => f (n - 1 - k) := by
  rw [beNumber, ← List.sum_reverse, reverse_map_range, leNumber]
  congr 1
  refine List.map_congr_left fun k hk => ?_
  have hlt := List.mem_range.mp hk
  rw [show n - 1 - (n - 1 - k) = k by omega]

theorem bytesToNat_reverse_map_range (n : Nat) (f : Nat → Byte) :
    bytesToNat ((List.range n).map f).reverse = beNumber n f := by
  rw [reverse_map_range, bytesToNat_map_range, beNumber_eq_leNumber]

theorem beNumber_lt (n : Nat) (f : Nat → Byte) : beNumber n f < 256 ^ n := by
  rw [beNumber_eq_leNumber]
  exact leNumber_lt n _

/-! ### The bytes of a word -/

section
variable {w : Nat}

theorem extractByte_eq_digit (v : Word w) (k : Nat) : v.extractLsb' (8 * k) 8 = digit v.toNat k := by
  rw [digit, BitVec.extractLsb', Nat.shiftRight_eq_div_pow, pow_mul]
  rfl

theorem toBytesLe_eq_digits (v : Word w) : toBytesLe v = (List.range (w / 8)).map (digit v.toNat) :=
  List.map_congr_left fun k _ => extractByte_eq_digit v k

/-- A word of whole bytes, `w = 8 * (w / 8)`, as every supported width has it. -/
theorem toBytesBe_eq_reverse (hw : 8 * (w / 8) = w) (v : Word w) : toBytesBe v = (toBytesLe v).reverse := by
  rw [toBytesLe, reverse_map_range]
  refine List.map_congr_left fun k hk => ?_
  have hlt := List.mem_range.mp hk
  rw [show w - 8 - 8 * k = 8 * (w / 8 - 1 - k) by omega]

theorem pow_256_bytes (hw : 8 * (w / 8) = w) : 256 ^ (w / 8) = 2 ^ w := by
  rw [show 256 = 2 ^ 8 from rfl, ← pow_mul, hw]

theorem fromBytesLe_toBytesLe (hw : 8 * (w / 8) = w) (v : Word w) : fromBytesLe w (toBytesLe v) = v := by
  rw [fromBytesLe, toBytesLe_eq_digits, bytesToNat_map_range, leNumber_digit, pow_256_bytes hw,
    Nat.mod_eq_of_lt v.isLt, BitVec.ofNat_toNat, BitVec.setWidth_eq]

theorem fromBytesBe_toBytesBe (hw : 8 * (w / 8) = w) (v : Word w) : fromBytesBe w (toBytesBe v) = v := by
  rw [fromBytesBe, toBytesBe_eq_reverse hw, List.reverse_reverse, fromBytesLe_toBytesLe hw]

theorem fromBytesLe_toNat (hw : 8 * (w / 8) = w) (f : Nat → Byte) :
    (fromBytesLe w ((List.range (w / 8)).map f)).toNat = leNumber (w / 8) f := by
  rw [fromBytesLe, BitVec.toNat_ofNat, bytesToNat_map_range]
  exact Nat.mod_eq_of_lt (pow_256_bytes hw ▸ leNumber_lt (w / 8) f)

theorem fromBytesBe_toNat (hw : 8 * (w / 8) = w) (f : Nat → Byte) :
    (fromBytesBe w ((List.range (w / 8)).map f)).toNat = beNumber (w / 8) f := by
  rw [fromBytesBe, fromBytesLe, BitVec.toNat_ofNat, bytesToNat_reverse_map_range]
  exact Nat.mod_eq_of_lt (pow_256_bytes hw ▸ beNumber_lt (w / 8) f)

end

/-- Settles O32: every supported width is a whole number of bytes. -/
theorem bytesOfAWordGiveItBack : Obligations.BytesOfAWordGiveItBack := by
  intro wd v
  have hw := widthBits_eq_bytes wd
  exact ⟨fromBytesLe_toBytesLe hw v, fromBytesBe_toBytesBe hw v, toBytesBe_eq_reverse hw v⟩

end Sys2Proof.Machine
end

section
/-! PROOFS. WLD and WST: their checks, the slot and the byte order of the immediate, and the bytes moved (R95, R150,
R151). -/

namespace Sys2Proof.Machine
open Sys2Proof.Reference

/-! ### The immediate (R95) -/

theorem slotImmLegal_iff (imm : BitVec 16) : slotImmLegal imm = true ↔ imm.toNat < 4 := by
  have himm := imm.isLt
  rw [slotImmLegal, beq_iff_eq, ← BitVec.toNat_inj, BitVec.extractLsb'_toNat, Nat.shiftRight_eq_div_pow,
    BitVec.toNat_ofNat]
  omega

theorem bigEndian_iff {imm : BitVec 16} (h : imm.toNat < 4) : bigEndian imm = true ↔ imm.toNat / 2 ≠ 0 := by
  rw [bigEndian, beq_iff_eq, ← BitVec.toNat_inj, BitVec.extractLsb'_toNat, Nat.shiftRight_eq_div_pow,
    BitVec.toNat_ofNat]
  omega

theorem whenLegal_of_four_le {imm : BitVec 16} (h : 4 ≤ imm.toNat) (op : BitVec 8) (s : State) (rest : Result) :
    whenLegal (slotImmLegal imm) op s rest = .next (failed s .illegal op) := by
  have hillegal : slotImmLegal imm = false := by
    rw [← Bool.not_eq_true, slotImmLegal_iff]
    omega
  rw [hillegal, whenLegal_false]
  rfl

theorem whenLegal_of_lt_four {imm : BitVec 16} (h : imm.toNat < 4) (op : BitVec 8) (s : State) (rest : Result) :
    whenLegal (slotImmLegal imm) op s rest = rest := by
  rw [(slotImmLegal_iff imm).mpr h, whenLegal_true]

theorem slotBase_eq (s : State) (imm : BitVec 16) : s.slotBase imm = imm.toNat % 2 * s.u := by
  rw [State.slotBase, slotIndex_eq_mod_two]

/-! ### WLD -/

theorem exec_wld (d : Reg) (imm : BitVec 16) (s : State) : exec (.wld d imm) s = execWld d imm s := rfl

/-- A configured WLD of a slot that holds an unwritten byte stops. -/
theorem execWld_unwritten {d : Reg} {imm : BitVec 16} {s : State} (himm : imm.toNat < 4) (hp : s.phase ≠ .uncfg)
    (h : s.dinBytes (s.slotBase imm) s.u = none) : execWld d imm s = .fault .unwrittenInputByte := by
  rw [execWld, whenLegal_of_lt_four himm, whenConfigured_of_configured _ hp, h]

/-- A configured WLD of a written slot writes its bytes' number. -/
theorem execWld_written {d : Reg} {imm : BitVec 16} {s : State} {bytes : List Byte} (himm : imm.toNat < 4)
    (hp : s.phase ≠ .uncfg) (h : s.dinBytes (s.slotBase imm) s.u = some bytes) :
    execWld d imm s =
      writeWord Op.wld d (if bigEndian imm then fromBytesBe s.w bytes else fromBytesLe s.w bytes) s := by
  rw [execWld, whenLegal_of_lt_four himm, whenConfigured_of_configured _ hp, h]

/-- The bytes that a slot's offsets name, as a list. -/
theorem dinBytes_eq_some {s : State} {base n : Nat} {din : Nat → Byte}
    (h : ∀ k, k < n → s.mem.read (dinBase + base + k) = some (din k)) :
    s.dinBytes base n = some ((List.range n).map din) := by
  refine (Memory.readBytes_eq_some _ _ _ _).mpr ⟨by simp, fun k hk => ?_⟩
  rw [h k (by simpa using hk)]
  simp

/-- The number of a slot's bytes, in the byte order that IMM[1] selects. -/
theorem slotWord_toNat (s : State) {imm : BitVec 16} (himm : imm.toNat < 4) (din : Nat → Byte) :
    (if bigEndian imm then fromBytesBe s.w ((List.range s.u).map din)
      else fromBytesLe s.w ((List.range s.u).map din)).toNat =
      if imm.toNat / 2 = 0 then leNumber s.u din else beNumber s.u din := by
  have hw : 8 * (s.w / 8) = s.w := s.eight_mul_u
  by_cases hbe : imm.toNat / 2 = 0
  · rw [if_neg (mt (bigEndian_iff himm).mp (not_not.mpr hbe)), if_pos hbe]
    exact fromBytesLe_toNat hw din
  · rw [if_pos ((bigEndian_iff himm).mpr hbe), if_neg hbe]
    exact fromBytesBe_toNat hw din

/-- Settles O40: the checks in order, then the slot's bytes, all written or not. -/
theorem wldLoadsASlot : Obligations.WldLoadsASlot := by
  intro d imm s
  rw [exec_wld]
  refine ⟨fun himm => whenLegal_of_four_le himm _ _ _, fun himm hp => ?_, fun himm hp hnone => ?_,
    fun din himm hp hsome => ?_⟩
  · rw [execWld, whenLegal_of_lt_four himm]
    exact whenConfigured_of_uncfg _ hp
  · rw [← slotBase_eq] at hnone
    exact execWld_unwritten himm hp ((s.mem.readBytes_eq_none _ _).mpr hnone)
  · rw [← slotBase_eq] at hsome
    rw [execWld_written himm hp (dinBytes_eq_some hsome)]
    exact writeWord_eq_wrote _ d s (slotWord_toNat s himm din)

/-! ### WST -/

theorem exec_wst (a : Reg) (imm : BitVec 16) (s : State) : exec (.wst a imm) s = execWst a imm s := rfl

/-- A configured WST stores its bytes in the slot of DOUT. -/
theorem execWst_stored {a : Reg} {imm : BitVec 16} {s : State} (himm : imm.toNat < 4) (hp : s.phase ≠ .uncfg) :
    execWst a imm s =
      .next (stored s Op.wst (s.mem.writeBytes (doutBase + s.slotBase imm) (s.storeBytes a imm))) := by
  rw [execWst, whenLegal_of_lt_four himm, whenConfigured_of_configured _ hp]
  rfl

/-- Byte `k` of a stored word is its digit `k`, counted from the other end where IMM[1] selects big-endian. -/
theorem storeBytes_eq_digits {s : State} (hs : RegistersHoldWords s) (a : Reg) {imm : BitVec 16}
    (himm : imm.toNat < 4) :
    s.storeBytes a imm =
      (List.range s.u).map fun k => digit (val s a) (if imm.toNat / 2 = 0 then k else s.u - 1 - k) := by
  have hw : 8 * (s.w / 8) = s.w := s.eight_mul_u
  have hle : toBytesLe (s.word a) = (List.range s.u).map (digit (val s a)) := by
    rw [toBytesLe_eq_digits, word_toNat hs]
    rfl
  rw [State.storeBytes]
  by_cases hbe : imm.toNat / 2 = 0
  · rw [if_neg (mt (bigEndian_iff himm).mp (not_not.mpr hbe)), hle]
    simp only [hbe, if_true]
  · rw [if_pos ((bigEndian_iff himm).mpr hbe), toBytesBe_eq_reverse hw, hle, reverse_map_range]
    simp only [hbe, if_false]

/-- Settles O41: the checks in order, then the `u` bytes written and every other byte left. -/
theorem wstStoresASlot : Obligations.WstStoresASlot := by
  intro a imm s
  rw [exec_wst]
  refine ⟨fun himm => whenLegal_of_four_le himm _ _ _, fun himm hp => ?_,
    fun himm hp hs => ⟨_, execWst_stored himm hp, slotBase_eq s imm, fun k hk => ?_, fun n hn => ?_⟩⟩
  · rw [execWst, whenLegal_of_lt_four himm]
    exact whenConfigured_of_uncfg _ hp
  · rw [Memory.read_writeBytes_inside _ _ _ (by rwa [length_storeBytes])]
    simp only [storeBytes_eq_digits hs a himm, List.getElem_map, List.getElem_range]
  · exact Memory.read_writeBytes_outside _ _ _ (by rwa [length_storeBytes])

end Sys2Proof.Machine
end

section
/-! PROOFS. The tables before mixing: S as an arithmetic progression (R205), and L as the packed key (R204). The loop for
L runs from the last key byte down, so its invariant gives every word's number once the bytes from `n` on are in. -/

namespace Sys2Proof.Machine
open Sys2Proof.Reference

/-! ### The S table (R205) -/

theorem arithmeticTable_toNat {w : Nat} (n : Nat) (first q : Word w) :
    (arithmeticTable q n first).map BitVec.toNat =
      (List.range n).map fun i => (first.toNat + i * q.toNat) % 2 ^ w := by
  induction n generalizing first with
  | zero => rfl
  | succ n ih =>
    have hnext (i : Nat) : (addW first q).toNat + i * q.toNat ≡ first.toNat + (i + 1) * q.toNat [MOD 2 ^ w] := by
      rw [addW_toNat, add_one_mul, add_comm (i * q.toNat), ← add_assoc]
      exact (Nat.mod_modEq _ _).add_right _
    rw [arithmeticTable, List.map_cons, ih, List.range_succ_eq_map, List.map_cons, List.map_map, zero_mul, add_zero,
      Nat.mod_eq_of_lt first.isLt]
    exact congrArg _ (List.map_congr_left fun i _ => hnext i)

/-- Settles O26, by induction on the number of entries. -/
theorem generatedSIsArithmetic : Obligations.GeneratedSIsArithmetic := fun _ t p q => arithmeticTable_toNat t p q

/-! ### One word of the L table (R204) -/

section
variable {u b i j : Nat} {key : Nat → Byte}

/-- The number of the word `L[j]` once the key bytes `n` to `b - 1` have been packed: of its own `u` bytes, those from
`n` on, little-endian. -/
def tailWord (u b : Nat) (key : Nat → Byte) (n j : Nat) : Nat :=
  leNumber (min ((j + 1) * u) b - max n (j * u)) fun k => key (max n (j * u) + k)

/-- Before the loop no byte is in. -/
theorem tailWord_length (u b : Nat) (key : Nat → Byte) (j : Nat) : tailWord u b key b j = 0 := by
  rw [tailWord, show min ((j + 1) * u) b - max b (j * u) = 0 by omega, leNumber_zero]

/-- After the loop every byte is in. -/
theorem tailWord_zero (u b : Nat) (key : Nat → Byte) (j : Nat) : tailWord u b key 0 j = packedWord u b key j := by
  rw [tailWord, packedWord, Nat.zero_max, add_one_mul, show min (j * u + u) b - j * u = min u (b - j * u) by omega]

/-- Byte `i` becomes the lowest digit of its word. -/
theorem tailWord_div (hu : 0 < u) (hi : i < b) :
    tailWord u b key i (i / u) = (key i).toNat + 256 * tailWord u b key (i + 1) (i / u) := by
  have hlow : i / u * u ≤ i := Nat.div_mul_le_self i u
  have hhigh : i < (i / u + 1) * u := Nat.lt_mul_of_div_lt (Nat.lt_succ_self _) hu
  rw [tailWord, tailWord, max_eq_left hlow, max_eq_left (show i / u * u ≤ i + 1 by omega),
    show min ((i / u + 1) * u) b - i = min ((i / u + 1) * u) b - (i + 1) + 1 by omega, leNumber_succ_low]
  simp only [Nat.add_zero, Nat.add_assoc, Nat.add_comm 1]

/-- Byte `i` belongs to no other word. -/
theorem tailWord_of_ne (hu : 0 < u) (hj : i / u ≠ j) : tailWord u b key i j = tailWord u b key (i + 1) j := by
  rcases Nat.lt_or_gt_of_ne hj with hlt | hgt
  · have hbefore : i < j * u := Nat.lt_mul_of_div_lt hlt hu
    rw [tailWord, tailWord, max_eq_right hbefore.le, max_eq_right (Nat.succ_le_of_lt hbefore)]
  · have hafter : (j + 1) * u ≤ i := (Nat.le_div_iff_mul_le hu).mp hgt
    rw [tailWord, tailWord, show min ((j + 1) * u) b - max i (j * u) = 0 by omega,
      show min ((j + 1) * u) b - max (i + 1) (j * u) = 0 by omega, leNumber_zero, leNumber_zero]

/-- The word of byte `i` still has room for one byte. -/
theorem tailWord_succ_mul_lt (hu : 0 < u) : tailWord u b key (i + 1) (i / u) * 256 < 256 ^ u := by
  have hlow : i / u * u ≤ i := Nat.div_mul_le_self i u
  have hcount : min ((i / u + 1) * u) b - max (i + 1) (i / u * u) + 1 ≤ u := by
    rw [add_one_mul]
    omega
  calc tailWord u b key (i + 1) (i / u) * 256
      < 256 ^ (min ((i / u + 1) * u) b - max (i + 1) (i / u * u)) * 256 :=
        Nat.mul_lt_mul_of_pos_right (leNumber_lt _ _) (by decide)
    _ ≤ 256 ^ u := by
        rw [← pow_succ]
        exact Nat.pow_le_pow_right (by decide) hcount

end

/-! ### The loop that generates L (R204) -/

section
variable {w c : Nat} {key : List Byte} {f : Nat → Byte}

/-- A rotation that pushes no bit out is a multiplication. -/
theorem rotl_eq_mul_pow {v k : Nat} (hk : k ≤ w) (h : v * 2 ^ k < 2 ^ w) : rotl w v k = v * 2 ^ k := by
  rcases hk.lt_or_eq with hlt | rfl
  · have hhigh : v / 2 ^ (w - k) = 0 := by
      refine Nat.div_eq_of_lt (Nat.lt_of_mul_lt_mul_right (a := 2 ^ k) ?_)
      rwa [← pow_add, Nat.sub_add_cancel hk]
    rw [rotl, Nat.mod_eq_of_lt hlt, Nat.mod_eq_of_lt h, hhigh, Nat.or_zero]
  · have hv : v = 0 := by
      by_contra hne
      exact absurd h (Nat.not_lt.mpr (Nat.le_mul_of_pos_left _ (Nat.pos_of_ne_zero hne)))
    rw [hv, rotl, zero_mul, Nat.zero_mod, Nat.zero_div, Nat.zero_or, zero_mul]

/-- The L table once the key bytes from `n` on have been packed. -/
def tailTable (w c : Nat) (key : List Byte) (f : Nat → Byte) (n : Nat) : List (Word w) :=
  (List.range c).map fun j => BitVec.ofNat w (tailWord (w / 8) key.length f n j)

/-- A word with room for one byte, rotated by 8, gets the byte as its lowest digit. -/
theorem addW_rotlW_eight {v n : Nat} (hw : 8 ≤ w) (hv : v * 256 < 2 ^ w) :
    addW (rotlW (BitVec.ofNat w v) 8) (fromSmall w n) = BitVec.ofNat w (n + 256 * v) := by
  apply BitVec.eq_of_toNat_eq
  rw [addW_toNat, rotlW_toNat, fromSmall_toNat, BitVec.toNat_ofNat, BitVec.toNat_ofNat,
    Nat.mod_eq_of_lt (a := v) (by omega), rotl_eq_mul_pow hw hv, Nat.add_mod_mod, Nat.add_comm, Nat.mul_comm]
  rfl

/-- One step of the loop keeps the invariant. -/
theorem packByte_tailTable (hw : 8 * (w / 8) = w) (hpos : 0 < w) (hf : ∀ k, k < key.length → key.getD k 0 = f k)
    {i : Nat} (hi : i < key.length) (hc : i / (w / 8) < c) :
    packByte key i (tailTable w c key f (i + 1)) = tailTable w c key f i := by
  have hu : 0 < w / 8 := by omega
  have hroom : tailWord (w / 8) key.length f (i + 1) (i / (w / 8)) * 256 < 2 ^ w :=
    pow_256_bytes hw ▸ tailWord_succ_mul_lt hu
  have hold : (tailTable w c key f (i + 1)).getD (i / (w / 8)) 0 =
      BitVec.ofNat w (tailWord (w / 8) key.length f (i + 1) (i / (w / 8))) := by
    simp [tailTable, hc]
  rw [packByte, hold, hf i hi, addW_rotlW_eight (by omega) hroom, ← tailWord_div hu hi]
  refine List.ext_getElem (by simp [tailTable]) fun j hj _ => ?_
  rw [List.getElem_set]
  split
  · next heq => simp [tailTable, heq]
  · next hne => simp [tailTable, tailWord_of_ne hu hne]

theorem packKey_tailTable (hw : 8 * (w / 8) = w) (hpos : 0 < w) (hf : ∀ k, k < key.length → key.getD k 0 = f k)
    (hc : ∀ i, i < key.length → i / (w / 8) < c) {n : Nat} (hn : n ≤ key.length) :
    packKey key n (tailTable w c key f n) = tailTable w c key f 0 := by
  induction n with
  | zero => rfl
  | succ i ih => rw [packKey, packByte_tailTable hw hpos hf hn (hc i hn), ih (Nat.le_of_succ_le hn)]

/-- L has a word for every key byte (R8). -/
theorem div_lt_wordCount {b i : Nat} (hw : 8 * (w / 8) = w) (hpos : 0 < w) (hi : i < b) :
    i / (w / 8) < max 1 ((8 * b + w - 1) / w) := by
  have hword : i / (w / 8) = 8 * i / w := by
    conv_rhs => rw [← hw]
    exact (Nat.mul_div_mul_left i (w / 8) (by decide)).symm
  refine lt_max_of_lt_right (Nat.lt_of_succ_le ?_)
  rw [hword, Nat.succ_eq_add_one, ← Nat.add_div_right _ hpos]
  exact Nat.div_le_div_right (by omega)

theorem packedWord_lt (hw : 8 * (w / 8) = w) (b j : Nat) : packedWord (w / 8) b f j < 2 ^ w :=
  calc packedWord (w / 8) b f j < 256 ^ min (w / 8) (b - j * (w / 8)) := leNumber_lt _ _
    _ ≤ 256 ^ (w / 8) := Nat.pow_le_pow_right (by decide) (min_le_left _ _)
    _ = 2 ^ w := pow_256_bytes hw

/-- The L table on numbers, for a key whose bytes are those of `f`. -/
theorem generateL_toNat (hw : 8 * (w / 8) = w) (hpos : 0 < w) (hf : ∀ k, k < key.length → key.getD k 0 = f k) :
    (generateL w (max 1 ((8 * key.length + w - 1) / w)) key).map BitVec.toNat =
      (List.range (max 1 ((8 * key.length + w - 1) / w))).map (packedWord (w / 8) key.length f) := by
  have hstart (c : Nat) : List.replicate c (0 : Word w) = tailTable w c key f key.length := by
    simp [tailTable, tailWord_length]
  rw [generateL, hstart, packKey_tailTable hw hpos hf (fun _ => div_lt_wordCount hw hpos) le_rfl, tailTable,
    List.map_map]
  refine List.map_congr_left fun j _ => ?_
  rw [Function.comp_apply, tailWord_zero, BitVec.toNat_ofNat, Nat.mod_eq_of_lt (packedWord_lt hw _ j)]

end

/-- Settles O25, by the loop's invariant `tailTable`: each byte shifts its word up by one digit. -/
theorem generatedLIsThePackedKey : Obligations.GeneratedLIsThePackedKey := fun wd _ =>
  generateL_toNat (widthBits_eq_bytes wd) (widthBits_pos wd) fun _ _ => rfl

end Sys2Proof.Machine
end

section
/-! PROOFS. SETUP: its checks, the mixing loop on numbers, and the key schedule (R203, R206, R207, R40). -/

namespace Sys2Proof.Machine
open Sys2Proof.Reference

/-! ### The mixing loop on numbers (R206) -/

section
variable {w t c : Nat}

/-- The variables `(S, L, A, B)` of the mixing loop as numbers. -/
def Mix.numbers (m : Mix w) : List Nat × List Nat × Nat × Nat :=
  (m.s.map BitVec.toNat, m.l.map BitVec.toNat, m.a.toNat, m.b.toNat)

theorem getD_map_toNat (l : List (Word w)) (i : Nat) : (l.map BitVec.toNat).getD i 0 = (l.getD i 0).toNat :=
  List.getD_map l 0 BitVec.toNat

/-- One iteration, where `i` and `j` have counted `n` iterations. -/
theorem mixStep_numbers {m : Mix w} {n : Nat} (hi : m.i = n % t) (hj : m.j = n % c) :
    (mixStep t c m).numbers = mixIteration w t c m.numbers n := by
  simp only [mixStep, Mix.numbers, mixIteration, List.map_set, rotlW_toNat, rotamt_eq, addW_toNat,
    Nat.mod_add_mod, getD_map_toNat, hi, hj]

theorem mixLoop_numbers {m : Mix w} {n : Nat} (k : Nat) (hi : m.i = n % t) (hj : m.j = n % c) :
    (mixLoop t c k m).numbers = (List.range' n k).foldl (mixIteration w t c) m.numbers := by
  induction k generalizing m n with
  | zero => rfl
  | succ k ih =>
    have hi' : (mixStep t c m).i = (n + 1) % t := by rw [← Nat.mod_add_mod, ← hi]; rfl
    have hj' : (mixStep t c m).j = (n + 1) % c := by rw [← Nat.mod_add_mod, ← hj]; rfl
    rw [mixLoop, ih hi' hj', mixStep_numbers hi hj, List.range'_succ, List.foldl_cons]

end

/-! ### The key schedule (R203) -/

/-- The machine's key schedule is the spec's, for a key of `b` bytes that are those of `f`. -/
theorem keySchedule_toNat {s : State} {key : List Byte} {f : Nat → Byte} (hlen : key.length = s.b)
    (hf : ∀ k, k < key.length → key.getD k 0 = f k) :
    (Machine.keySchedule s.magicP s.magicQ s.t s.c key).map BitVec.toNat = Reference.keySchedule s.w s.r s.b f := by
  have hS : (generateS s.magicP s.magicQ s.t).map BitVec.toNat =
      (List.range s.t).map fun i => ((magic s.w).1 + i * (magic s.w).2) % 2 ^ s.w := by
    rw [generatedSIsArithmetic, magicP_toNat, magicQ_toNat]
  have hL : (generateL s.w s.c key).map BitVec.toNat = (List.range s.c).map (packedWord (s.w / 8) s.b f) := by
    rw [State.c, ← hlen]
    exact generateL_toNat s.eight_mul_u s.w_pos hf
  have hloop := mixLoop_numbers (w := s.w) (t := s.t) (c := s.c) (n := 0) (3 * max s.t s.c)
    (m := ⟨generateS s.magicP s.magicQ s.t, generateL s.w s.c key, 0, 0, 0, 0⟩) (Nat.zero_mod _).symm
    (Nat.zero_mod _).symm
  rw [← List.range_eq_range', Mix.numbers, Mix.numbers, hS, hL] at hloop
  exact congrArg Prod.fst hloop

theorem toCell_eq_ofNat {w : Nat} : (Word.toCell : Word w → Cell) = fun v => BitVec.ofNat 128 v.toNat :=
  funext fun v => (BitVec.ofNat_toNat 128 v).symm

/-! ### SETUP (R207) -/

/-- The state after a successful SETUP that left the round keys `table`. -/
def keyed (s : State) (table : List Nat) : State :=
  { s with
    sTable := table.map (BitVec.ofNat 128), lTable := [], phase := .ready, ecode := .ok, lastop := 0x02#8, pend := none }

/-- SETUP's effects and its completion, on the numbers of the round keys. -/
theorem install_finish_eq_keyed {w : Nat} (s : State) (table : List (Word w)) :
    (s.install table).finish Op.setup = keyed s (table.map BitVec.toNat) := by
  rw [keyed, List.map_map, State.install, toCell_eq_ofNat]
  rfl

section
variable {s : State}

theorem exec_setup (s : State) : exec .setup s = execSetup s := rfl

theorem execSetup_of_klen (hp : s.phase ≠ .uncfg) (hl : s.klen.toNat ≠ s.b) :
    execSetup s = .next (s.raise .keySize Op.setup) := by
  rw [execSetup, whenConfigured_of_configured _ hp, if_pos hl]

theorem execSetup_unwritten (hp : s.phase ≠ .uncfg) (hl : s.klen.toNat = s.b) (hk : s.keyBytes s.b = none) :
    execSetup s = .fault .unwrittenKeyByte := by
  rw [execSetup, whenConfigured_of_configured _ hp, if_neg (not_not.mpr hl), hk]

theorem execSetup_written {key : List Byte} {f : Nat → Byte} (hp : s.phase ≠ .uncfg) (hl : s.klen.toNat = s.b)
    (hk : s.keyBytes s.b = some key) (hf : ∀ k, k < key.length → key.getD k 0 = f k) :
    execSetup s = .next (keyed s (Reference.keySchedule s.w s.r s.b f)) := by
  obtain ⟨hlen, -⟩ := (Memory.readBytes_eq_some _ _ _ _).mp hk
  rw [execSetup, whenConfigured_of_configured _ hp, if_neg (not_not.mpr hl), hk, ← keySchedule_toNat hlen hf]
  exact congrArg _ (install_finish_eq_keyed s _)

/-- The key bytes that KEYBUF's offsets name, as a list. -/
theorem keyBytes_eq_some {n : Nat} {f : Nat → Byte} (h : ∀ k, k < n → s.mem.read (keyBase + k) = some (f k)) :
    s.keyBytes n = some ((List.range n).map f) := by
  refine (Memory.readBytes_eq_some _ _ _ _).mpr ⟨by simp, fun k hk => ?_⟩
  rw [h k (by simpa using hk), List.getElem_map, List.getElem_range]

end

/-- Settles O23: the checks in order, then the key bytes, all written or not. -/
theorem setupComputesTheKeySchedule : Obligations.SetupComputesTheKeySchedule := by
  refine ⟨fun _ => whenConfigured_of_uncfg _, fun _ => execSetup_of_klen, fun s hp hl hnone => ?_,
    fun s f hp hl hsome => ?_⟩
  · rw [exec_setup]
    exact execSetup_unwritten hp hl ((s.mem.readBytes_eq_none _ _).mpr hnone)
  · rw [exec_setup, execSetup_written (f := f) hp hl (keyBytes_eq_some hsome), keyed]
    intro k hk
    rw [List.getD_eq_getElem _ _ hk, List.getElem_map, List.getElem_range]

/-! ### What S depends on (R203) -/

/-- A SETUP that succeeds has read its key, and leaves the key schedule of it. -/
theorem exec_setup_ok {s s' : State} (h : exec .setup s = .next s') (hok : s'.ecode = .ok) :
    ∃ key, s.keyBytes s.b = some key ∧
      s' = keyed s (Reference.keySchedule s.w s.r s.b fun k => key.getD k 0) := by
  rcases exec_next h with ⟨code, hcode, rfl⟩ | ⟨q, he, -⟩
  · exact absurd hok hcode
  · cases he with
    | setup _ key hp hl hk =>
      rw [exec_setup, execSetup_written hp hl hk fun _ _ => rfl] at h
      cases h
      exact ⟨key, hk, rfl⟩
    | word _ _ rd v hp hd => cases hd
    | store _ _ n bytes hp hn hi => simp at hi

/-- Memories that agree on the bytes read give the same bytes. -/
theorem Memory.readBytes_congr {m m' : Memory} {a n : Nat} {bs : List Byte}
    (h : ∀ k, k < n → m.read (a + k) = m'.read (a + k)) (hm : m.readBytes a n = some bs) :
    m'.readBytes a n = some bs := by
  rw [Memory.readBytes_eq_some] at hm ⊢
  obtain ⟨hlen, hread⟩ := hm
  exact ⟨hlen, fun k hk => (h k (hlen ▸ hk)).symm.trans (hread k hk)⟩

/-- Settles O27: both tables are the key schedule of one configuration and one key. -/
theorem keyScheduleDependsOnlyOnTheKey : Obligations.KeyScheduleDependsOnlyOnTheKey := by
  intro s1 s2 s1' s2' hwsel hcfgR hcfgB hmem h1 h2 hok1 hok2
  have hw : s1.w = s2.w := congrArg widthBits hwsel
  have hr : s1.r = s2.r := congrArg BitVec.toNat hcfgR
  have hb : s1.b = s2.b := congrArg BitVec.toNat hcfgB
  obtain ⟨key1, hkey1, rfl⟩ := exec_setup_ok h1 hok1
  obtain ⟨key2, hkey2, rfl⟩ := exec_setup_ok h2 hok2
  have hkey : key1 = key2 :=
    Option.some.inj ((Memory.readBytes_congr hmem hkey1).symm.trans (hb ▸ hkey2))
  rw [keyed, keyed, hkey, hw, hr, hb]

end Sys2Proof.Machine
end

section
/-! PROOFS. NOP, CONFIG and RDS: the checks of each in order, and the next state in full (R200, R202, R208). -/

namespace Sys2Proof.Machine
open Sys2Proof.Reference

/-- Settles O21: `exec` of NOP is its completion. -/
theorem nopOnlyCompletes : Obligations.NopOnlyCompletes := fun _ => rfl

/-! ### CONFIG (R202) -/

theorem exec_config (wsel : BitVec 3) (r : BitVec 8) (b : BitVec 12) (s : State) :
    exec (.config wsel r b) s = execConfig wsel r b s := rfl

/-- The width of a WSEL code, from the list of R8. -/
theorem widthBits_eq_getD (wd : Width) :
    widthBits wd = [8, 16, 24, 32, 64, 80, 128].getD (widthCode wd).toNat 0 := by
  cases wd <;> rfl

/-- Every WSEL code but 7 is the code of a width. -/
theorem exists_widthCode_eq {wsel : BitVec 3} (h : wsel ≠ 7#3) : ∃ wd, widthCode wd = wsel := by
  have hcode : ∃ wd ∈ [Width.w8, .w16, .w24, .w32, .w64, .w80, .w128], widthCode wd = wsel := by
    revert wsel
    decide
  obtain ⟨wd, -, hwd⟩ := hcode
  exact ⟨wd, hwd⟩

/-- CONFIG of a legal width: the checks of R and B in order. -/
theorem execConfig_widthCode (wd : Width) (r : BitVec 8) (b : BitVec 12) (s : State) :
    execConfig (widthCode wd) r b s =
      if r.toNat = 0 ∨ s.params.rmax.toNat < r.toNat then .next (s.raise .badParam Op.config)
      else if s.params.keyBound.toNat < b.toNat then .next (s.raise .keySize Op.config)
      else .next ((s.configure wd r b).finish Op.config) := by
  rw [execConfig, widthOfCode_widthCode]

/-- Settles O22: by the WSEL code, then the checks of R and B in order. -/
theorem configCreatesAnInstance : Obligations.ConfigCreatesAnInstance := by
  intro wsel r b s
  rw [exec_config]
  by_cases hwsel : wsel = 7#3
  · subst hwsel
    exact ⟨fun _ => rfl, fun hne => absurd rfl hne, fun hne => absurd rfl hne, fun hne => absurd rfl hne⟩
  · obtain ⟨wd, rfl⟩ := exists_widthCode_eq hwsel
    rw [execConfig_widthCode]
    refine ⟨fun h => absurd h hwsel, fun _ hr => if_pos hr, fun _ hr0 hrmax hb => ?_, fun _ hr0 hrmax hb => ?_⟩
    · rw [if_neg (by omega), if_pos hb]
      rfl
    · rw [if_neg (by omega), if_neg (by omega)]
      exact ⟨_, rfl, widthBits_eq_getD wd, rfl, rfl⟩

/-! ### RDS (R208) -/

theorem exec_rds (d : Reg) (imm : BitVec 16) (s : State) : exec (.rds d imm) s = execRds d imm s := rfl

/-- An entry of S that holds a word is that round key. -/
theorem roundKey_toNat {s : State} {i k : Nat} (hk : k < 2 ^ s.w) (h : s.sTable[i]? = some (BitVec.ofNat 128 k)) :
    (s.roundKey i).toNat = k := by
  have hcell : k < 2 ^ 128 := hk.trans_le (Nat.pow_le_pow_right (by decide) s.w_le)
  rw [State.roundKey, h, Option.getD_some, toWord_toNat, BitVec.toNat_ofNat, Nat.mod_eq_of_lt hcell, Nat.mod_eq_of_lt hk]

/-- Settles O24: the checks in order, then the round key's word. -/
theorem rdsReadsOneRoundKey : Obligations.RdsReadsOneRoundKey := by
  intro d imm s
  rw [exec_rds, execRds]
  refine ⟨fun hp => whenReady_of_uncfg _ hp, fun hp => whenReady_of_cfgd _ hp, fun hp himm => ?_,
    fun k hp himm hk hentry => ?_⟩
  · rw [whenReady_of_ready _ hp, if_pos himm]
    rfl
  · rw [whenReady_of_ready _ hp, if_neg (Nat.not_le.mpr himm)]
    exact writeWord_eq_wrote _ d s (roundKey_toNat hk hentry)

end Sys2Proof.Machine
end

section
/-! PROOFS. The block transform on the two words: decoding and encoding are inverse, and each is the pseudocode's on
numbers (R250, R251, R252). -/

namespace Sys2Proof.Machine
open Sys2Proof.Reference

variable {w : Nat}

/-! ### Decoding and encoding are inverse (R252) -/

theorem addW_comm (a b : Word w) : addW a b = addW b a := BitVec.add_comm a b

theorem decodeRound_encodeRound (key : Nat → Word w) (i : Nat) (p : Block w) :
    Machine.decodeRound key i (Machine.encodeRound key i p) = p := by
  simp only [Machine.decodeRound, Machine.encodeRound, subW_addW, rotrW_rotlW, xorW_xorW]

theorem encodeRound_decodeRound (key : Nat → Word w) (i : Nat) (p : Block w) :
    Machine.encodeRound key i (Machine.decodeRound key i p) = p := by
  simp only [Machine.decodeRound, Machine.encodeRound, xorW_xorW, rotlW_rotrW, addW_subW]

theorem decodeRounds_encodeRounds (key : Nat → Word w) (r : Nat) (p : Block w) :
    decodeRounds key r (encodeRounds key r p) = p := by
  induction r with
  | zero => rfl
  | succ r ih => rw [encodeRounds, decodeRounds, decodeRound_encodeRound, ih]

theorem encodeRounds_decodeRounds (key : Nat → Word w) (r : Nat) (p : Block w) :
    encodeRounds key r (decodeRounds key r p) = p := by
  induction r generalizing p with
  | zero => rfl
  | succ r ih => rw [encodeRounds, decodeRounds, ih, encodeRound_decodeRound]

theorem decodeBlock_encodeBlock (key : Nat → Word w) (r : Nat) (p : Block w) :
    decodeBlock key r (encodeBlock key r p) = p := by
  rw [decodeBlock, encodeBlock, decodeRounds_encodeRounds]
  simp only [addW_comm (key _), subW_addW]

theorem encodeBlock_decodeBlock (key : Nat → Word w) (r : Nat) (p : Block w) :
    encodeBlock key r (decodeBlock key r p) = p := by
  simp only [encodeBlock, decodeBlock, addW_comm (key _), addW_subW]
  exact encodeRounds_decodeRounds key r p

/-- Settles O44: each round undoes the other direction's, and so does the whitening. -/
theorem blockTransformsAreInverse : Obligations.BlockTransformsAreInverse := fun _ r key p =>
  ⟨decodeBlock_encodeBlock key r p, encodeBlock_decodeBlock key r p⟩

/-! ### The transforms on numbers (R250, R251) -/

/-- The two words of a block as numbers. -/
def Block.numbers (p : Block w) : Nat × Nat := (p.a.toNat, p.b.toNat)

section
variable {key : Nat → Word w} {K : Nat → Nat} {i r : Nat}

theorem encodeRound_numbers (hA : (key (2 * i)).toNat = K (2 * i)) (hB : (key (2 * i + 1)).toNat = K (2 * i + 1))
    (p : Block w) : (Machine.encodeRound key i p).numbers = Reference.encodeRound w K p.numbers i := by
  simp only [Machine.encodeRound, Reference.encodeRound, Block.numbers, addW_toNat, rotlW_toNat, xorW_toNat, rotamt_eq,
    hA, hB]

theorem decodeRound_numbers (hA : (key (2 * i)).toNat = K (2 * i)) (hB : (key (2 * i + 1)).toNat = K (2 * i + 1))
    (p : Block w) : (Machine.decodeRound key i p).numbers = Reference.decodeRound w K p.numbers i := by
  simp only [Machine.decodeRound, Reference.decodeRound, Block.numbers, subW_toNat_eq_sub, rotrW_toNat, xorW_toNat,
    rotamt_eq, hA, hB]

theorem encodeRounds_numbers (hkey : ∀ n, n < 2 * (r + 1) → (key n).toNat = K n) (p : Block w) :
    (encodeRounds key r p).numbers = (List.range' 1 r).foldl (Reference.encodeRound w K) p.numbers := by
  induction r with
  | zero => rfl
  | succ r ih =>
    have hround := encodeRound_numbers (hkey (2 * (r + 1)) (by omega)) (hkey (2 * (r + 1) + 1) (by omega))
    rw [encodeRounds, hround, ih fun n hn => hkey n (by omega), List.range'_1_concat, List.foldl_concat,
      Nat.add_comm 1 r]

theorem decodeRounds_numbers (hkey : ∀ n, n < 2 * (r + 1) → (key n).toNat = K n) (p : Block w) :
    (decodeRounds key r p).numbers = (List.range' 1 r).reverse.foldl (Reference.decodeRound w K) p.numbers := by
  induction r generalizing p with
  | zero => rfl
  | succ r ih =>
    have hround := decodeRound_numbers (hkey (2 * (r + 1)) (by omega)) (hkey (2 * (r + 1) + 1) (by omega))
    rw [decodeRounds, ih fun n hn => hkey n (by omega), hround, List.range'_1_concat, List.reverse_concat,
      List.foldl_cons, Nat.add_comm 1 r]

theorem encodeBlock_numbers (hkey : ∀ n, n < 2 * (r + 1) → (key n).toNat = K n) (p : Block w) :
    (encodeBlock key r p).numbers = encodeWords w r K p.a.toNat p.b.toNat := by
  rw [encodeBlock, encodeRounds_numbers hkey, encodeWords, Block.numbers, addW_toNat, addW_toNat,
    hkey 0 (by omega), hkey 1 (by omega)]

theorem decodeBlock_numbers (hkey : ∀ n, n < 2 * (r + 1) → (key n).toNat = K n) (p : Block w) :
    (decodeBlock key r p).numbers = decodeWords w r K p.a.toNat p.b.toNat := by
  have hrounds : (_, _) = List.foldl _ (p.a.toNat, p.b.toNat) _ := decodeRounds_numbers hkey p
  rw [decodeBlock, decodeWords, Block.numbers, subW_toNat_eq_sub, subW_toNat_eq_sub, hkey 0 (by omega),
    hkey 1 (by omega), ← hrounds]

end

/-! ### The bytes of a block (R65) -/

/-- The digits of the number that bytes form are those bytes. -/
theorem digit_leNumber {n k : Nat} (f : Nat → Byte) (hk : k < n) : digit (leNumber n f) k = f k := by
  induction n generalizing f k with
  | zero => omega
  | succ n ih =>
    rw [leNumber_succ_low]
    have hbyte := (f 0).isLt
    cases k with
    | zero =>
      apply BitVec.eq_of_toNat_eq
      rw [digit, BitVec.toNat_ofNat, pow_zero]
      omega
    | succ k =>
      rw [digit, pow_succ', ← Nat.div_div_eq_div_mul, Nat.add_mul_div_left _ _ (by decide),
        Nat.div_eq_of_lt hbyte, Nat.zero_add]
      exact ih (fun k => f (k + 1)) (by omega)

/-- Byte `k` of a block: a digit of A, then of B. -/
def Block.byte (p : Block w) (k : Nat) : Byte :=
  if k < w / 8 then digit p.a.toNat k else digit p.b.toNat (k - w / 8)

theorem Block.byte_of_lt (p : Block w) {k : Nat} (hk : k < w / 8) : p.byte k = digit p.a.toNat k := if_pos hk

theorem Block.byte_add (p : Block w) (k : Nat) : p.byte (w / 8 + k) = digit p.b.toNat k := by
  rw [Block.byte, if_neg (Nat.not_lt.mpr (Nat.le_add_right _ k)), Nat.add_sub_cancel_left]

theorem bytesOfBlock_eq_map_byte (p : Block w) : bytesOfBlock p = (List.range (2 * (w / 8))).map p.byte := by
  rw [bytesOfBlock, toBytesLe_eq_digits, toBytesLe_eq_digits, Nat.two_mul, List.range_add, List.map_append,
    List.map_map]
  congr 1
  · exact List.map_congr_left fun k hk => (p.byte_of_lt (List.mem_range.mp hk)).symm
  · exact List.map_congr_left fun k _ => (p.byte_add k).symm

/-- The block that the first `2u` bytes of `din` form. -/
def inputBlock (w : Nat) (din : Nat → Byte) : Block w := blockOfBytes w ((List.range (2 * (w / 8))).map din)

theorem inputBlock_byte (hw : 8 * (w / 8) = w) (p : Block w) : inputBlock w p.byte = p := by
  rw [inputBlock, ← bytesOfBlock_eq_map_byte, bytesOfBlock, blockOfBytes, List.take_left' (length_toBytesLe p.a),
    List.drop_left' (length_toBytesLe p.a), fromBytesLe_toBytesLe hw, fromBytesLe_toBytesLe hw]

theorem inputBlock_numbers (hw : 8 * (w / 8) = w) (din : Nat → Byte) :
    (inputBlock w din).numbers = (leNumber (w / 8) din, leNumber (w / 8) fun k => din (w / 8 + k)) := by
  rw [inputBlock, Nat.two_mul, List.range_add, List.map_append, List.map_map, blockOfBytes,
    List.take_left' (by simp), List.drop_left' (by simp), Block.numbers]
  exact congrArg₂ Prod.mk (fromBytesLe_toNat hw din) (fromBytesLe_toNat hw fun k => din (w / 8 + k))

theorem byte_inputBlock (hw : 8 * (w / 8) = w) (din : Nat → Byte) {k : Nat} (hk : k < 2 * (w / 8)) :
    (inputBlock w din).byte k = din k := by
  obtain ⟨hA, hB⟩ := Prod.mk.inj (inputBlock_numbers hw din)
  by_cases hlow : k < w / 8
  · rw [Block.byte_of_lt _ hlow, hA, digit_leNumber din hlow]
  · obtain ⟨m, rfl⟩ := Nat.exists_eq_add_of_le (Nat.not_lt.mp hlow)
    rw [Block.byte_add, hB, digit_leNumber _ (by omega)]

end Sys2Proof.Machine
end

section
/-! PROOFS. ENCODE and DECODE: the checks in order, the block written to DOUT, and what the result depends on (R250 to
R253, R40, R65). -/

namespace Sys2Proof.Machine
open Sys2Proof.Reference

/-! ### One shape for both commands -/

/-- A block transform for every width: from the round keys and the round count. -/
abbrev BlockTransform := (w : Nat) → (Nat → Word w) → Nat → Block w → Block w

/-- Command `i`, with opcode byte `op`, sends the block in DIN through `f` under the configured keys. -/
def RunsBlock (i : Instr) (op : BitVec 8) (f : BlockTransform) : Prop :=
  ∀ s : State, exec i s = blockCommand op s (f s.w s.roundKey s.r)

theorem encode_runsBlock : RunsBlock .encode 0x03#8 fun _ => encodeBlock := fun _ => rfl

theorem decode_runsBlock : RunsBlock .decode 0x04#8 fun _ => decodeBlock := fun _ => rfl

/-- The block that `f` makes of the bytes `din` under the round keys and the round count of `s`. -/
def State.outputBlock (f : BlockTransform) (s : State) (din : Nat → Byte) : Block s.w :=
  f s.w s.roundKey s.r (inputBlock s.w din)

/-- The two states agree on everything but DIN that a block command reads: width, round count, S, phase and DLEN. -/
structure SameSetting (s s' : State) : Prop where
  cfgWsel : s.cfgWsel = s'.cfgWsel
  cfgR : s.cfgR = s'.cfgR
  sTable : s.sTable = s'.sTable
  phase : s.phase = s'.phase
  dlen : s.dlen = s'.dlen

theorem SameSetting.u_eq {s s' : State} (h : SameSetting s s') : s.u = s'.u :=
  congrArg (fun wd => widthBits wd / 8) h.cfgWsel

/-- The output bytes depend on the configuration and S alone (R253). -/
theorem SameSetting.outputBlock_byte {s s' : State} (h : SameSetting s s') (f : BlockTransform) (din : Nat → Byte) :
    (s.outputBlock f din).byte = (s'.outputBlock f din).byte := by
  unfold State.outputBlock State.roundKey State.w State.r
  rw [h.cfgWsel, h.cfgR, h.sTable]

/-- DIN holds the block `din` of `2u` bytes (R34, R40). -/
def State.HoldsInput (s : State) (din : Nat → Byte) : Prop :=
  ∀ k, k < 2 * s.u → s.mem.read (dinBase + k) = some (din k)

/-- The state after a block command wrote its output block to DOUT and finished. -/
def State.afterBlock (f : BlockTransform) (op : BitVec 8) (s : State) (din : Nat → Byte) : State :=
  stored s op (s.mem.writeBytes doutBase (bytesOfBlock (s.outputBlock f din)))

theorem State.afterBlock_read_dout (f : BlockTransform) (op : BitVec 8) (s : State) (din : Nat → Byte) {k : Nat}
    (hk : k < 2 * s.u) : (s.afterBlock f op din).mem.read (doutBase + k) = some ((s.outputBlock f din).byte k) := by
  refine (Memory.read_writeBytes_inside _ _ _ (by rwa [length_bytesOfBlock])).trans ?_
  simp only [bytesOfBlock_eq_map_byte, List.getElem_map, List.getElem_range]

theorem State.afterBlock_read_outside (f : BlockTransform) (op : BitVec 8) (s : State) (din : Nat → Byte) {a : Nat}
    (ha : a < doutBase ∨ doutBase + 2 * s.u ≤ a) : (s.afterBlock f op din).mem.read a = s.mem.read a :=
  Memory.read_writeBytes_outside _ _ _ (by rwa [length_bytesOfBlock])

section
variable {i : Instr} {op : BitVec 8} {f : BlockTransform} {s s' : State} {din : Nat → Byte}

/-- R250 and R251 where every check passes and the block is written. -/
theorem RunsBlock.exec_eq (h : RunsBlock i op f) (hp : s.phase = .ready) (hl : s.dlen.toNat = 2 * s.u)
    (hdin : s.HoldsInput din) : exec i s = .next (s.afterBlock f op din) := by
  have hbytes : s.dinBytes 0 (2 * s.u) = some ((List.range (2 * s.u)).map din) := dinBytes_eq_some hdin
  rw [h, blockCommand, whenReady_of_ready _ hp, if_neg (not_not.mpr hl), hbytes]
  rfl

/-- The checks' half of R250 and R251. -/
theorem RunsBlock.checks (h : RunsBlock i op f) : BlockChecks i op := by
  intro s
  rw [h, blockCommand]
  refine ⟨whenReady_of_uncfg _, whenReady_of_cfgd _, fun hp hl => ?_, fun hp hl hnone => ?_⟩
  · rw [whenReady_of_ready _ hp, if_pos hl]
    rfl
  · have hbytes : s.dinBytes 0 (2 * s.u) = none := (s.mem.readBytes_eq_none _ _).mpr hnone
    rw [whenReady_of_ready _ hp, if_neg (not_not.mpr hl), hbytes]

/-- The result's half of R250 and R251, from the transform on numbers. -/
theorem RunsBlock.result {F : (w r : Nat) → (key : Nat → Nat) → (a b : Nat) → Nat × Nat} (h : RunsBlock i op f)
    (hF : ∀ {w r : Nat} {key : Nat → Word w} {K : Nat → Nat}, (∀ n, n < 2 * (r + 1) → (key n).toNat = K n) →
      ∀ p : Block w, (f w key r p).numbers = F w r K p.a.toNat p.b.toNat) : BlockResult i op F := by
  intro s din key hp hl hdin htable
  have hkey (n : Nat) (hn : n < 2 * (s.r + 1)) : (s.roundKey n).toNat = key n :=
    roundKey_toNat (htable n hn).2 (htable n hn).1
  obtain ⟨hA, hB⟩ := Prod.mk.inj (inputBlock_numbers s.eight_mul_u din)
  have hout : (s.outputBlock f din).numbers =
      F s.w s.r key (leNumber s.u din) (leNumber s.u fun k => din (s.u + k)) := by
    rw [State.outputBlock, hF hkey, hA, hB]
    rfl
  rw [← hout]
  refine ⟨(s.afterBlock f op din).mem, h.exec_eq hp hl hdin, fun k hk => ?_, fun k hk => ?_,
    fun a => s.afterBlock_read_outside f op din⟩
  · rw [s.afterBlock_read_dout f op din (by omega)]
    exact congrArg some (Block.byte_of_lt _ hk)
  · rw [Nat.add_assoc, s.afterBlock_read_dout f op din (by omega)]
    exact congrArg some (Block.byte_add _ k)

/-- The list that a read of DIN gives is the block that DIN holds. -/
theorem holdsInput_of_dinBytes {bytes : List Byte} (h : s.dinBytes 0 (2 * s.u) = some bytes) :
    s.HoldsInput fun k => bytes.getD k 0 := by
  obtain ⟨hlen, hread⟩ := (Memory.readBytes_eq_some _ _ _ _).mp h
  intro k hk
  have hk' : k < bytes.length := hlen.symm ▸ hk
  exact (hread k hk').trans (congrArg some (List.getD_eq_getElem bytes 0 hk').symm)

/-- What a block command that completes did: an error that its checks name, or the block's result. -/
theorem RunsBlock.next (h : RunsBlock i op f) (hx : exec i s = .next s') :
    (s.phase = .uncfg ∧ s' = failed s .notConfigured op) ∨ (s.phase = .cfgd ∧ s' = failed s .notReady op) ∨
      (s.phase = .ready ∧ s.dlen.toNat ≠ 2 * s.u ∧ s' = failed s .length op) ∨
      (s.phase = .ready ∧ s.dlen.toNat = 2 * s.u ∧ ∃ din, s.HoldsInput din ∧ s' = s.afterBlock f op din) := by
  rcases blockCommand_next (h s ▸ hx) with herr | herr | herr | ⟨hp, hl, bytes, hbytes, -⟩
  · exact .inl herr
  · exact .inr (.inl herr)
  · exact .inr (.inr (.inl herr))
  · have hdin := holdsInput_of_dinBytes hbytes
    rw [h.exec_eq hp hl hdin] at hx
    cases hx
    exact .inr (.inr (.inr ⟨hp, hl, _, hdin, rfl⟩))

/-- What a block command that succeeds did. -/
theorem RunsBlock.next_ok (h : RunsBlock i op f) (hx : exec i s = .next s') (hok : s'.ecode = .ok) :
    s.phase = .ready ∧ s.dlen.toNat = 2 * s.u ∧ ∃ din, s.HoldsInput din ∧ s' = s.afterBlock f op din := by
  rcases h.next hx with ⟨-, rfl⟩ | ⟨-, rfl⟩ | ⟨-, -, rfl⟩ | hrun
  · cases hok
  · cases hok
  · cases hok
  · exact hrun

end

/-- Settles O42: the checks, and the rounds of encoding on numbers. -/
theorem encodeComputesTheRounds : Obligations.EncodeComputesTheRounds :=
  ⟨encode_runsBlock.checks, encode_runsBlock.result encodeBlock_numbers⟩

/-- Settles O43: the checks, and the rounds of decoding on numbers. -/
theorem decodeComputesTheRounds : Obligations.DecodeComputesTheRounds :=
  ⟨decode_runsBlock.checks, decode_runsBlock.result decodeBlock_numbers⟩

/-! ### The round trip on the machine (R252) -/

section
variable {i j : Instr} {op op' : BitVec 8} {f g : BlockTransform} {s s1 s2 : State}

/-- Where `g` undoes `f`, the output of `g` on the output bytes of `f` is the input bytes. -/
theorem State.outputBlock_outputBlock (hinv : ∀ w key r p, g w key r (f w key r p) = p) (s : State)
    (din : Nat → Byte) {k : Nat} (hk : k < 2 * s.u) : (s.outputBlock g (s.outputBlock f din).byte).byte k = din k := by
  have hw : 8 * (s.w / 8) = s.w := s.eight_mul_u
  rw [State.outputBlock, inputBlock_byte hw, State.outputBlock, hinv]
  exact byte_inputBlock hw din hk

/-- Command `j` undoes command `i` on the machine where its transform undoes that of `i`. -/
theorem RunsBlock.undoes (hi : RunsBlock i op f) (hj : RunsBlock j op' g)
    (hinv : ∀ w key r p, g w key r (f w key r p) = p) (hx : exec i s = .next s1) (hok : s1.ecode = .ok)
    (hset : SameSetting s2 s1)
    (hmem : ∀ k, k < 2 * s.u → s2.mem.read (dinBase + k) = s1.mem.read (doutBase + k)) :
    ∃ s3 : State, exec j s2 = .next s3 ∧ s3.ecode = .ok ∧
      ∀ k, k < 2 * s.u → s3.mem.read (doutBase + k) = s.mem.read (dinBase + k) := by
  obtain ⟨hp, hl, din, hdin, rfl⟩ := hi.next_ok hx hok
  have hu : s2.u = s.u := hset.u_eq
  have hp2 : s2.phase = .ready := hset.phase.trans hp
  have hl2 : s2.dlen.toNat = 2 * s2.u := by
    rw [hset.dlen, hu]
    exact hl
  have hdin2 : s2.HoldsInput (s.outputBlock f din).byte := fun k hk =>
    (hmem k (hu ▸ hk)).trans (s.afterBlock_read_dout f op din (hu ▸ hk))
  refine ⟨_, hj.exec_eq hp2 hl2 hdin2, rfl, fun k hk => ?_⟩
  rw [State.afterBlock_read_dout _ _ _ _ (hu.symm ▸ hk), hset.outputBlock_byte, hdin k hk]
  exact congrArg some (s.outputBlock_outputBlock hinv din hk)

end

/-- Settles O45: in each direction the second command's transform undoes the first one's. -/
theorem decodeCommandUndoesEncodeCommand : Obligations.DecodeCommandUndoesEncodeCommand := by
  intro i j s s1 s2 hij hx hok hwsel hr htable hphase hdlen
  have hset : SameSetting s2 s1 := ⟨hwsel, hr, htable, hphase, hdlen⟩
  rcases hij with ⟨rfl, rfl⟩ | ⟨rfl, rfl⟩
  · exact encode_runsBlock.undoes decode_runsBlock (fun _ => decodeBlock_encodeBlock) hx hok hset
  · exact decode_runsBlock.undoes encode_runsBlock (fun _ => encodeBlock_decodeBlock) hx hok hset

/-! ### Blocks are independent (R253) -/

section
variable {i : Instr} {op : BitVec 8} {f : BlockTransform} {s1 s2 s1' : State}

/-- States with the same setting and the same input bytes complete a block command alike. -/
theorem RunsBlock.independent (h : RunsBlock i op f) (hset : SameSetting s1 s2)
    (hmem : ∀ k, k < 2 * s1.u → s1.mem.read (dinBase + k) = s2.mem.read (dinBase + k))
    (hx : exec i s1 = .next s1') :
    ∃ s2' : State, exec i s2 = .next s2' ∧ s2'.ecode = s1'.ecode ∧
      (s1'.ecode = .ok → ∀ k, k < 2 * s1.u → s2'.mem.read (doutBase + k) = s1'.mem.read (doutBase + k)) := by
  obtain ⟨huncfg, hcfgd, hlength, -⟩ := h.checks s2
  have hu := hset.u_eq
  have hphase := hset.phase
  rcases h.next hx with ⟨hp, rfl⟩ | ⟨hp, rfl⟩ | ⟨hp, hl, rfl⟩ | ⟨hp, hl, din, hdin, rfl⟩
  · exact ⟨_, huncfg (hphase ▸ hp), rfl, nofun⟩
  · exact ⟨_, hcfgd (hphase ▸ hp), rfl, nofun⟩
  · rw [hset.dlen, hu] at hl
    exact ⟨_, hlength (hphase ▸ hp) hl, rfl, nofun⟩
  · rw [hset.dlen, hu] at hl
    have hdin2 : s2.HoldsInput din := fun k hk => (hmem k (hu ▸ hk)).symm.trans (hdin k (hu ▸ hk))
    refine ⟨_, h.exec_eq (hphase ▸ hp) hl hdin2, rfl, fun _ k hk => ?_⟩
    rw [State.afterBlock_read_dout _ _ _ _ hk, State.afterBlock_read_dout _ _ _ _ (hu ▸ hk), hset.outputBlock_byte]

end

/-- Settles O46: a block command's checks and its output block read only what the two states share. -/
theorem blocksAreIndependent : Obligations.BlocksAreIndependent := by
  intro i s1 s2 s1' hi hwsel hr htable hphase hdlen
  have hset : SameSetting s1 s2 := ⟨hwsel, hr, htable, hphase, hdlen⟩
  rcases hi with rfl | rfl
  · exact encode_runsBlock.independent hset
  · exact decode_runsBlock.independent hset

end Sys2Proof.Machine
end

section
/-! PROOFS. How a command completes (R35, R97, R201, R281, R283, R284, R298), and that every command has a meaning
(R286, U16). -/

namespace Sys2Proof.Machine
open Sys2Proof.Reference

/-! ### Completions (R283, R284) -/

/-- A legal word's OP is its command's opcode byte (R90, R96). -/
theorem opField_of_decode {c : BitVec 32} {i : Instr} (h : decode c = .ok i) : opField c = i.opByte := by
  obtain ⟨hm, -⟩ := decode_eq_ok_iff.mp h
  exact ((matchesRow_row_iff c i).mp hm).1

/-- The two ways a command word completes, legal or not: with an error, or with an effect and then success. -/
theorem complete_next {c : BitVec 32} {s s' : State} (h : complete c s = .next s') :
    (∃ code, code ≠ .ok ∧ s' = s.raise code (opField c)) ∨
      ∃ i q, decode c = .ok i ∧ Effect i s q ∧ s' = q.finish (opField c) := by
  cases hd : decode c with
  | error e =>
    rw [complete_error s hd] at h
    cases h
    exact .inl ⟨.illegal, by decide, rfl⟩
  | ok i =>
    rw [complete_ok s hd] at h
    rw [opField_of_decode hd]
    rcases exec_next h with herr | ⟨q, he, hq⟩
    · exact .inl herr
    · exact .inr ⟨i, q, rfl, he, hq⟩

/-- No effect reaches the sticky flags (R28). -/
theorem Effect.flags {i : Instr} {s q : State} (he : Effect i s q) : q.err = s.err ∧ q.ovr = s.ovr := by
  cases he <;> exact ⟨rfl, rfl⟩

/-- Settles O10, by the two ways a word completes: `raise` sets ERR, and the effect before `finish` leaves the flags. -/
theorem everyCompletionRecordsItsOutcome : Obligations.EveryCompletionRecordsItsOutcome := by
  intro c s s' h
  rcases complete_next h with ⟨code, hcode, rfl⟩ | ⟨i, q, -, he, rfl⟩
  · exact ⟨rfl, rfl, fun hok => absurd hok hcode, fun _ => rfl, rfl⟩
  · obtain ⟨herr, hovr⟩ := he.flags
    exact ⟨rfl, rfl, fun _ => herr, fun hne => absurd rfl hne, hovr⟩

/-- Settles O11: a completion that reports an error is `raise`. -/
theorem failedCommandChangesOnlyStatus : Obligations.FailedCommandChangesOnlyStatus := by
  intro c s s' h hne
  rcases complete_next h with ⟨code, -, rfl⟩ | ⟨i, q, -, -, rfl⟩
  · rfl
  · exact absurd rfl hne

/-! ### Before CONFIG (R201, R281) -/

/-- Settles O12: check (1) passes, since the command is legal, and check (2) fails. -/
theorem unconfiguredCommandsFail : Obligations.UnconfiguredCommandsFail := by
  intro i s hw hnop hconfig hp
  cases i with
  | nop => exact absurd rfl hnop
  | config wsel r b => exact absurd rfl (hconfig wsel r b)
  | encode | decode | rds => exact whenReady_of_uncfg _ hp
  | wld rd imm =>
    rw [exec_wld, execWld, show slotImmLegal imm = true from hw, whenLegal_true]
    exact whenConfigured_of_uncfg _ hp
  | wst rs1 imm =>
    rw [exec_wst, execWst, show slotImmLegal imm = true from hw, whenLegal_true]
    exact whenConfigured_of_uncfg _ hp
  | _ => exact whenConfigured_of_uncfg _ hp

/-! ### Nothing is refused (R286) -/

/-- The outcome is a next state or a fault: the model gives the instruction a meaning. -/
def Modelled (o : Result) : Prop := ∀ r, o ≠ .refused r

theorem modelled_next (s : State) : Modelled (.next s) := nofun

theorem modelled_fault (f : Fault) : Modelled (.fault f) := nofun

section
variable {op : BitVec 8} {s : State} {rest : Result}

theorem Modelled.whenLegal {legal : Bool} (h : Modelled rest) : Modelled (whenLegal legal op s rest) :=
  iteInduction (fun _ => h) fun _ => modelled_next _

theorem Modelled.whenConfigured (h : Modelled rest) : Modelled (whenConfigured op s rest) :=
  iteInduction (fun _ => modelled_next _) fun _ => h

theorem Modelled.whenReady (h : Modelled rest) : Modelled (whenReady op s rest) :=
  .whenConfigured (iteInduction (fun _ => h) fun _ => modelled_next _)

theorem modelled_blockCommand (f : Block s.w → Block s.w) : Modelled (blockCommand op s f) := by
  refine .whenReady (iteInduction (fun _ => modelled_next _) fun _ => ?_)
  split
  · exact modelled_fault _
  · exact modelled_next _

end

/-- Every command has its meaning. -/
theorem exec_modelled (i : Instr) (s : State) : Modelled (exec i s) := by
  cases i with
  | nop => exact modelled_next _
  | config wsel r b =>
    rw [exec_config, execConfig]
    split
    · exact modelled_next _
    · exact iteInduction (fun _ => modelled_next _) fun _ =>
        iteInduction (fun _ => modelled_next _) fun _ => modelled_next _
  | setup =>
    refine .whenConfigured (iteInduction (fun _ => modelled_next _) fun _ => ?_)
    split
    · exact modelled_fault _
    · exact modelled_next _
  | encode | decode => exact modelled_blockCommand _
  | wld rd imm =>
    refine .whenLegal (.whenConfigured ?_)
    split
    · exact modelled_fault _
    · exact modelled_next _
  | wst rs1 imm => exact .whenLegal (.whenConfigured (modelled_next _))
  | rds rd imm => exact .whenReady (iteInduction (fun _ => modelled_next _) fun _ => modelled_next _)
  | _ => exact .whenConfigured (modelled_next _)

/-- The engine's turn goes on, or is the meaning of a command. -/
theorem engineTurn_next_or_exec (s : State) : (∃ s', engineTurn s = .next s') ∨ ∃ i, engineTurn s = exec i s := by
  cases hp : s.pend with
  | none => exact .inl ⟨s, engineTurn_idle hp⟩
  | some c =>
    rw [engineTurn_pending hp]
    cases hd : decode c with
    | error e => exact .inl ⟨_, complete_error s hd⟩
    | ok i => exact .inr ⟨i, complete_ok s hd⟩

/-- A step goes on, or is the meaning of a command on the state without the event. -/
theorem step_next_or_exec (s : State) : (∃ s', step s = .next s') ∨ ∃ i, step s = exec i s.popped := by
  cases he : s.events with
  | nil =>
    rw [step_engine he, popped_of_no_events he]
    exact engineTurn_next_or_exec s
  | cons ev rest =>
    cases ev with
    | complete =>
      rw [step_complete he, popped_of_events he]
      exact engineTurn_next_or_exec s.popped
    | read a => exact .inl ⟨_, step_read he⟩
    | write a v => exact .inl ⟨_, step_write he⟩
    | reset => exact .inl ⟨_, step_reset he⟩

theorem step_modelled (s : State) : Modelled (step s) := by
  rcases step_next_or_exec s with ⟨s', h⟩ | ⟨i, h⟩
  · exact h ▸ modelled_next s'
  · exact h ▸ exec_modelled i s.popped

/-- Settles O17: every command has its meaning, and a step that is no command goes on. -/
theorem nothingIsRefused : Obligations.NothingIsRefused := ⟨exec_modelled, step_modelled⟩

/-! ### The idle engine (R298) -/

/-- Settles O9: with BUSY = 0 the engine's turn keeps the state, in both shapes of the list of events. -/
theorem idleEngineKeepsAllState : Obligations.IdleEngineKeepsAllState := fun _ hp =>
  ⟨fun he => (step_engine he).trans (engineTurn_idle hp), fun _ he => (step_complete he).trans (engineTurn_idle hp)⟩

end Sys2Proof.Machine
end

section
/-! PROOFS. A run whose host wrote every byte of KEYBUF and DIN and which meets no reset: it never stops, and one step
after its last event it has ended (R286, R320, R323, R328). -/

namespace Sys2Proof.Machine
open Sys2Proof.Reference

variable {s s' : State}

/-! ### A written byte stays written (R40) -/

theorem Memory.writeBytes_written {m : Memory} {a' : Nat} (a : Nat) (bs : List Byte) (h : m.read a' ≠ none) :
    (m.writeBytes a bs).read a' ≠ none := by
  by_cases hin : a ≤ a' ∧ a' < a + bs.length
  · rw [← Nat.add_sub_of_le hin.1, m.read_writeBytes_inside a bs (by omega)]
    exact Option.some_ne_none _
  · rwa [m.read_writeBytes_outside a bs (by omega)]

theorem State.busWrite_written {n : Nat} (a : BitVec 12) (v : BitVec 32) (h : s.mem.read n ≠ none) :
    (s.busWrite a v).mem.read n ≠ none := by
  unfold State.busWrite
  split
  · exact h
  · cases busReg a with
    | din m | key m => exact Memory.writeBytes_written _ _ h
    | _ => exact h

theorem exec_written {i : Instr} {n : Nat} (hx : exec i s = .next s') (h : s.mem.read n ≠ none) :
    s'.mem.read n ≠ none := by
  rcases exec_next hx with ⟨code, -, rfl⟩ | ⟨q, he, rfl⟩
  · exact h
  · cases he with
    | store _ _ k bytes => exact Memory.writeBytes_written _ _ h
    | _ => exact h

/-- Every step but the reset input keeps a written byte written. -/
theorem step_written {n : Nat} (hs : step s = .next s') (hr : ¬ NextIsReset s) (h : s.mem.read n ≠ none) :
    s'.mem.read n ≠ none := by
  cases step_kind hs with
  | idle | illegal op | read a => exact h
  | command i _ hc hx => exact exec_written hx h
  | write a v => exact State.busWrite_written a v h
  | reset hreset => exact absurd hreset hr

/-! ### Each step takes one event -/

@[simp] theorem State.busWrite_events (s : State) (a : BitVec 12) (v : BitVec 32) :
    (s.busWrite a v).events = s.events := by
  unfold State.busWrite
  split
  · rfl
  · exact s.writeReg_events v (busReg a)

theorem exec_events {i : Instr} (hx : exec i s = .next s') : s'.events = s.events := by
  obtain ⟨-, -, -, -, hevents, -, -⟩ := commandsWriteNoBufferButDout i s s' hx
  exact hevents

theorem step_events (hs : step s = .next s') : s'.events = s.events.tail := by
  cases step_kind hs with
  | idle | illegal op | read a | reset => rfl
  | command i _ hc hx => exact exec_events hx
  | write a v => exact s.popped.busWrite_events a v

/-- With no event left, a step leaves BUSY = 0 (R320). -/
theorem step_pend_of_no_events (hs : step s = .next s') (he : s.events = []) : s'.pend = none := by
  rw [step_engine he] at hs
  cases hp : s.pend with
  | none =>
    rw [engineTurn_idle hp] at hs
    cases hs
    exact hp
  | some c =>
    rw [engineTurn_pending hp] at hs
    exact (everyCompletionRecordsItsOutcome c s s' hs).1

/-! ### A supplied engine -/

/-- The invariant, every byte of DIN and KEYBUF written, and no reset to come. -/
structure State.Supplied (s : State) : Prop where
  inv : s.Inv
  din : ∀ k, k < blkBytes → s.mem.read (dinBase + k) ≠ none
  keybuf : ∀ k, k < keybufBytes → s.mem.read (keyBase + k) ≠ none
  noReset : Event.reset ∉ s.events

/-- The key is never longer than KEYBUF (R29, R33). -/
theorem State.Inv.b_lt_keybufBytes (h : s.Inv) : s.b < keybufBytes := by
  by_cases hp : s.phase = .uncfg
  · obtain ⟨-, -, hb, -⟩ := h.unconfigured hp
    rw [State.b, hb]
    decide
  · obtain ⟨-, -, hb⟩ := h.configured hp
    exact Nat.lt_of_le_of_lt hb s.params.keyBound.isLt

/-- Every byte that a command reads lies in KEYBUF or in DIN, so none stops a supplied engine. -/
theorem State.Supplied.exec_ne_fault (h : s.Supplied) (i : Instr) (f : Fault) : exec i s ≠ .fault f := by
  intro hx
  have hu := s.u_le
  rcases faultsOnlyOnUnwrittenBytes i s f hx with
    ⟨-, -, k, hk, hread⟩ | ⟨-, -, k, hk, hread⟩ | ⟨-, d, imm, -, k, hk, hread⟩
  · exact h.keybuf k (hk.trans h.inv.b_lt_keybufBytes) hread
  · exact h.din k (by simp only [blkBytes]; omega) hread
  · have hslot : imm.toNat % 2 * s.u ≤ 1 * s.u := Nat.mul_le_mul_right s.u (by omega)
    rw [Nat.add_assoc] at hread
    exact h.din _ (by simp only [blkBytes]; omega) hread

theorem State.Supplied.popped (h : s.Supplied) : s.popped.Supplied where
  inv := h.inv.of_internal_eq rfl h.inv.memFits
  din := h.din
  keybuf := h.keybuf
  noReset hm := h.noReset (List.mem_of_mem_tail hm)

theorem State.Supplied.not_nextIsReset (h : s.Supplied) : ¬ NextIsReset s := by
  rintro ⟨rest, he⟩
  exact h.noReset (he ▸ List.mem_cons_self)

theorem State.Supplied.of_step (h : s.Supplied) (hs : step s = .next s') : s'.Supplied where
  inv := everyStepKeepsTheInvariant s s' h.inv hs
  din k hk := step_written hs h.not_nextIsReset (h.din k hk)
  keybuf k hk := step_written hs h.not_nextIsReset (h.keybuf k hk)
  noReset hm := h.noReset (List.mem_of_mem_tail (step_events hs ▸ hm))

theorem State.Supplied.step_next (h : s.Supplied) : ∃ s', step s = .next s' := by
  rcases step_next_or_exec s with hnext | ⟨i, hx⟩
  · exact hnext
  · cases hs : step s with
    | next s' => exact ⟨s', rfl⟩
    | fault f => exact absurd (hx.symm.trans hs) (h.popped.exec_ne_fault i f)
    | refused r => exact absurd hs (step_modelled s r)

/-! ### Its runs -/

/-- A supplied engine runs on, takes one event a step, and stays supplied. -/
theorem State.Supplied.run (h : s.Supplied) (n : Nat) :
    ∃ s' : State, Sys2Proof.core.run n s = Host.Outcome.next s' ∧ s'.Supplied ∧ s'.events = s.events.drop n := by
  induction n generalizing s with
  | zero => exact ⟨s, rfl, h, rfl⟩
  | succ n ih =>
    obtain ⟨q, hq⟩ := h.step_next
    obtain ⟨s', hrun, hs', hevents⟩ := ih (h.of_step hq)
    exact ⟨s', (run_succ_of_next n hq).trans hrun, hs', by rw [hevents, step_events hq, List.drop_tail]⟩

theorem ended_of_no_events (he : s.events = []) (hp : s.pend = none) : s.ended = true := by
  simp [State.ended, State.busy, he, hp]

theorem busy_of_ended (h : s.ended = true) : s.busy = false := by
  cases hb : s.busy with
  | false => rfl
  | true => exact absurd h (by simp [ended_of_busy hb])

/-- One step after its last event, the run of a supplied engine can end: that step completes what is still pending. -/
theorem State.Supplied.run_ended (h : s.Supplied) :
    ∃ s' : State, Sys2Proof.core.run (s.events.length + 1) s = Host.Outcome.next s' ∧ s'.ended = true := by
  obtain ⟨q, hrun, hq, hevents⟩ := h.run s.events.length
  rw [List.drop_length] at hevents
  obtain ⟨s', hs'⟩ := hq.step_next
  refine ⟨s', ?_, ended_of_no_events ?_ (step_pend_of_no_events hs' hevents)⟩
  · rw [run_add 1 hrun, run_succ_of_next 0 hs', run_zero]
  · rw [step_events hs', hevents, List.tail_nil]

/-- A run that reaches a state where it can end has ended at the first such state. -/
theorem exists_runEnds {n : Nat} (hrun : Sys2Proof.core.run n s = Host.Outcome.next s') (he : s'.ended = true) :
    ∃ m, m ≤ n ∧ ∃ q : State, RunEnds m s q := by
  classical
  have hex : ∃ m, ∃ q : State, Sys2Proof.core.run m s = Host.Outcome.next q ∧ q.ended = true := ⟨n, s', hrun, he⟩
  obtain ⟨q, hq, hqe⟩ := Nat.find_spec hex
  exact ⟨Nat.find hex, Nat.find_min' hex ⟨s', hrun, he⟩, q, hq, hqe, fun m hm p hp =>
    Bool.eq_false_iff.mpr fun hpe => Nat.find_min hex hm ⟨p, hp, hpe⟩⟩

/-- Settles O19: every state of the run is supplied, so no step stops it, and one step after the last event it can end,
with BUSY = 0. -/
theorem writtenBuffersNeverFault : Obligations.WrittenBuffersNeverFault := by
  intro s hinv hdin hkey hreset
  have h : s.Supplied := ⟨hinv, hdin, hkey, hreset⟩
  refine ⟨fun n => ?_, fun n s' hrun => ?_, ?_⟩
  · obtain ⟨s', hrun, -, -⟩ := h.run n
    exact ⟨s', hrun⟩
  · obtain ⟨p, hp, hs', -⟩ := h.run n
    cases hrun.symm.trans hp
    obtain ⟨s'', hrun', he⟩ := hs'.run_ended
    exact ⟨_, le_rfl, s'', hrun', busy_of_ended he⟩
  · obtain ⟨s', hrun, he⟩ := h.run_ended
    exact exists_runEnds hrun he

end Sys2Proof.Machine
end

section
/-! PROOFS. The reset input, a pending command's completion, the round keys after CONFIG, and the end of a run (R35, R298,
R310, R311, R320, R323, R325). -/

namespace Sys2Proof.Machine
open Sys2Proof.Reference

variable {s s' : State}

/-! ### A pending command completes (R320) -/

theorem engineTurn_modelled (s : State) : Modelled (engineTurn s) := by
  rcases engineTurn_next_or_exec s with ⟨s', h⟩ | ⟨i, h⟩
  · exact h ▸ modelled_next s'
  · exact h ▸ exec_modelled i s

/-- The engine's turn with a command pending faults or completes the command. -/
theorem engineTurn_of_pending {c : BitVec 32} (hp : s.pend = some c) :
    (∃ f, engineTurn s = .fault f) ∨
      ∃ s', engineTurn s = .next s' ∧ s'.busy = false ∧ s'.lastop = c.extractLsb' 0 8 := by
  cases h : engineTurn s with
  | next s' =>
    rw [engineTurn_pending hp] at h
    obtain ⟨hpend, hlastop, -⟩ := everyCompletionRecordsItsOutcome c s s' h
    exact .inr ⟨s', rfl, by rw [State.busy, hpend, Option.isSome_none], hlastop⟩
  | fault f => exact .inl ⟨f, rfl⟩
  | refused r => exact absurd h (engineTurn_modelled s r)

/-- With BUSY = 1 a bus write is dropped, so the command stays pending (R66). -/
theorem State.busWrite_pend_of_pending {c : BitVec 32} (a : BitVec 12) (v : BitVec 32) (h : s.pend = some c) :
    (s.busWrite a v).pend = some c := by
  have hbusy : s.busy = true := by rw [State.busy, h, Option.isSome_some]
  rw [State.busWrite_of_busy hbusy, State.markOverrun_pend, h]

/-- With a command pending and no reset to come, a step faults, completes the command, or is a bus access that leaves it
pending and one event fewer to come. -/
theorem step_of_pending {c : BitVec 32} (hp : s.pend = some c) (hr : Event.reset ∉ s.events) :
    (∃ f, step s = .fault f) ∨ (∃ s', step s = .next s' ∧ s'.busy = false ∧ s'.lastop = c.extractLsb' 0 8) ∨
      ∃ s', step s = .next s' ∧ s'.pend = some c ∧ s.events.length = s'.events.length + 1 := by
  cases he : s.events with
  | nil =>
    rw [step_engine he]
    exact (engineTurn_of_pending hp).imp_right .inl
  | cons ev rest =>
    rw [List.length_cons]
    cases ev with
    | complete =>
      rw [step_complete he]
      exact (engineTurn_of_pending (s := { s with events := rest }) hp).imp_right .inl
    | read a => exact .inr (.inr ⟨_, step_read he, hp, rfl⟩)
    | write a v =>
      exact .inr (.inr ⟨_, step_write he, State.busWrite_pend_of_pending a v hp, by rw [State.busWrite_events]⟩)
    | reset => exact absurd (he ▸ List.mem_cons_self) hr

theorem reset_not_mem_of_step (hs : step s = .next s') (hr : Event.reset ∉ s.events) : Event.reset ∉ s'.events :=
  fun hm => hr (List.mem_of_mem_tail (step_events hs ▸ hm))

/-- Settles O20, by induction on the number of events still to come: a step that leaves the command pending takes one. -/
theorem pendingCommandCompletes : Obligations.PendingCommandCompletes := by
  intro s c hp hr
  induction hlen : s.events.length using Nat.strong_induction_on generalizing s with
  | _ len ih =>
    rcases step_of_pending hp hr with ⟨f, hf⟩ | ⟨s', hs, hdone⟩ | ⟨s', hs, hpend, hfewer⟩
    · exact ⟨1, by omega, .inl ⟨f, run_succ_of_fault 0 hf⟩⟩
    · exact ⟨1, by omega, .inr ⟨s', run_succ_of_next 0 hs, hdone⟩⟩
    · obtain ⟨n, hn, hrun⟩ := ih s'.events.length (by omega) s' hpend (reset_not_mem_of_step hs hr) rfl
      exact ⟨n + 1, by omega, by rwa [run_succ_of_next n hs]⟩

/-! ### The round keys after CONFIG (R325) -/

/-- Settles O28: a successful CONFIG leaves the phase CFGD, in which check (3) fails. -/
theorem configInvalidatesTheRoundKeys : Obligations.ConfigInvalidatesTheRoundKeys := by
  intro wsel r b s s' h hok
  obtain ⟨-, hconfig, -⟩ := phaseChangesOnlyByConfigSetupOrReset.1 _ s s' h
  have hp : s'.phase = .cfgd := hconfig wsel r b rfl hok
  exact ⟨whenReady_of_cfgd _ hp, whenReady_of_cfgd _ hp, fun _ _ => whenReady_of_cfgd _ hp⟩

/-! ### The end of a run (R323) -/

theorem any_isAccess_eq_false_iff (evs : List Event) :
    evs.any Event.isAccess = false ↔ (∀ a, Event.read a ∉ evs) ∧ ∀ a v, Event.write a v ∉ evs := by
  rw [List.any_eq_false]
  constructor
  · exact fun h => ⟨fun a hm => h _ hm rfl, fun a v hm => h _ hm rfl⟩
  · rintro ⟨hread, hwrite⟩ ev hm
    cases ev with
    | read a => exact absurd hm (hread a)
    | write a v => exact absurd hm (hwrite a v)
    | complete | reset => exact Bool.false_ne_true

theorem ended_iff (s : State) :
    s.ended = true ↔ ((∀ a, Event.read a ∉ s.events) ∧ ∀ a v, Event.write a v ∉ s.events) ∧ s.pend = none := by
  rw [← any_isAccess_eq_false_iff, State.ended, State.busy, Bool.and_eq_true, Bool.not_eq_true', Bool.not_eq_true',
    Option.isSome_eq_false_iff, Option.isNone_iff_eq_none]

theorem outcome_of_not_ended (h : s.ended = false) : s.outcome = none := by
  rw [State.outcome, h, if_neg Bool.false_ne_true]

@[simp] theorem length_bufferBytes (s : State) (base n : Nat) : (s.bufferBytes base n).length = n := by
  rw [State.bufferBytes, List.length_map, List.length_range]

theorem getElem?_bufferBytes (s : State) (base : Nat) {n k : Nat} (hk : k < n) :
    (s.bufferBytes base n)[k]? = some (s.mem.read (base + k)) := by
  rw [State.bufferBytes, List.getElem?_map, List.getElem?_range hk, Option.map_some]

/-- Settles O59: what a state shows is what the registers read as, and the buffers' bytes. -/
theorem runOutcomeIsWhatTheHostCanRead : Obligations.RunOutcomeIsWhatTheHostCanRead := fun s =>
  ⟨ended_iff s, outcome_of_not_ended, fun h => ⟨s.observation, outcome_of_ended h,
    readsAs_of_regValue_toNat rfl, readsAs_of_regValue_toNat rfl,
    readsAs_of_regValue_toNat (BitVec.toNat_setWidth_of_le (by decide)),
    readsAs_of_regValue_toNat (BitVec.toNat_setWidth_of_le (by decide)),
    length_bufferBytes s _ _, length_bufferBytes s _ _, length_bufferBytes s _ _,
    fun _ hk => ⟨getElem?_bufferBytes s _ hk, getElem?_bufferBytes s _ hk⟩, fun _ hk => getElem?_bufferBytes s _ hk⟩⟩

/-- At the end of a run, with no reset to come, a step only takes the next completion off the list (R298). -/
theorem step_of_ended (h : s.ended = true) (hr : Event.reset ∉ s.events) : step s = .next s.popped := by
  obtain ⟨⟨hread, hwrite⟩, hp⟩ := (ended_iff s).mp h
  obtain ⟨hidle, hcomplete⟩ := idleEngineKeepsAllState s hp
  cases he : s.events with
  | nil => rw [hidle he, popped_of_no_events he]
  | cons ev rest =>
    have hm : ev ∈ s.events := he ▸ List.mem_cons_self
    cases ev with
    | complete => rw [hcomplete rest he, popped_of_events he]
    | read a => exact absurd hm (hread a)
    | write a v => exact absurd hm (hwrite a v)
    | reset => exact absurd hm hr

theorem ended_popped (h : s.ended = true) : s.popped.ended = true := by
  obtain ⟨⟨hread, hwrite⟩, hp⟩ := (ended_iff s).mp h
  exact (ended_iff s.popped).mpr
    ⟨⟨fun a hm => hread a (List.mem_of_mem_tail hm), fun a v hm => hwrite a v (List.mem_of_mem_tail hm)⟩, hp⟩

theorem outcome_popped (h : s.ended = true) : s.popped.outcome = s.outcome := by
  rw [outcome_of_ended (ended_popped h), outcome_of_ended h]
  rfl

/-- Settles O60, by induction on the number of steps: each takes a completion off the list, which no outcome sees. -/
theorem endedRunKeepsItsOutcome : Obligations.EndedRunKeepsItsOutcome := by
  intro s h hr n
  induction n generalizing s with
  | zero => exact ⟨s, rfl, h, rfl⟩
  | succ n ih =>
    have hs := step_of_ended h hr
    obtain ⟨s', hrun, he, hout⟩ := ih s.popped (ended_popped h) (reset_not_mem_of_step hs hr)
    exact ⟨s', (run_succ_of_next n hs).trans hrun, he, hout.trans (outcome_popped h)⟩

/-! ### The reset input (R310, R311) -/

/-- Settles O56: the reset input is the next state whatever is pending, and the reset state lists no byte. -/
theorem resetInputRestoresTheResetState : Obligations.ResetInputRestoresTheResetState := fun _ _ he =>
  ⟨_, step_reset he, rfl, rfl, rfl, fun _ => rfl⟩

end Sys2Proof.Machine
end
